-- ==== Sys2Proof/Machine/Fixed.lean ====
section
/-! DEFINITION. The constants whose value the source fixes (spec/00_scope.md R5), each under its own name so that no
definition writes the number out. -/

namespace Sys2Proof

/-- CODE_BITS (R5): the width of a register's address code. -/
abbrev codeBits : Nat := 6

/-- ADDR_SHIFT (R5): the left shift of the code inside the wire byte. -/
abbrev addrShift : Nat := 1

/-- DIR_BIT (R5): the bit of the wire byte that holds the direction flag. -/
abbrev dirBit : Nat := 7

/-- DIR_WRITE (R5): the direction flag of a write. -/
abbrev dirWrite : Nat := 0

/-- DIR_READ (R5): the direction flag of a read. -/
abbrev dirRead : Nat := 1

/-- ACCESS_SIZE (R5): the bytes of every register access. -/
abbrev accessSize : Nat := 1

/-- UID_SIZE (R5): the bytes of the UID and of the staging buffer. -/
def uidSize : Nat := 4

/-- WUP_LEN (R5): the bytes of the wake-up request written to the FIFO. -/
abbrev wupLen : Nat := 1

/-- WUP_BITS (R5): the significant bits of the wake-up request. -/
abbrev wupBits : Nat := 7

/-- SEL_LEN (R5): the bytes of the select command written to the FIFO. -/
abbrev selLen : Nat := 2

/-- POLL_BUDGET (R5): the most reads of the interrupt-status register in one polling wait. -/
def pollBudget : Nat := 10000

/-- CATALOG_SIZE (R5): the registers in the chip's catalog; the source says "about 30", and no rule uses it. -/
def catalogSize : Nat := 30

end Sys2Proof
end

