-- ==== Sys2Proof/Word.lean ====
section
/-! DEFINITION. The words the block moves: bytes and 6-bit register codes (spec/00_scope.md R8, R5), and a bank of
four bytes (spec/10_state.md R25, R26). No value in the block is signed (R8). -/

namespace Sys2Proof

/-- A byte: 8 bits, unsigned, bit 7 the most significant (R8). -/
abbrev Byte := BitVec 8

/-- A register's address code: CODE_BITS = 6 bits (R5), so a code above 63 cannot be written down (R82). -/
abbrev Code := BitVec codeBits

/-- Four bytes indexed 0 to 3: the staging buffer STG (R25) and the host's UID bank (R26); UID_SIZE = 4 (R5). -/
structure Bank where
  b0 : Byte
  b1 : Byte
  b2 : Byte
  b3 : Byte
deriving DecidableEq, Repr

end Sys2Proof
end

