-- ==== Sys2Proof/Config.lean ====
section
/-! DEFINITION. What an implementation fixes: the OPEN parameters of spec/00_scope.md R6 and of spec/10_state.md R22,
as one record that every procedure of the model takes as an argument; and the free values, which nothing in Lean can
evaluate (notes/assumptions/3.md, 4.md). -/

namespace Sys2Proof

/-- UNCONFIGURED_POLICY (R22, D13): what RESET and RDUID do while DS is not `Configured`. -/
inductive Policy where
  /-- The default: the run has no meaning and is refused. -/
  | refuse
  /-- The same procedure runs whatever DS holds. -/
  | ungated
deriving DecidableEq, Repr

/-- The parameters the source leaves without a value (R6), and UNCONFIGURED_POLICY (R22). -/
structure Params where
  /-- REG_COMMAND -/
  regCommand : Code
  /-- REG_COMIRQ -/
  regComIrq : Code
  /-- REG_FIFO_DATA -/
  regFifoData : Code
  /-- REG_FIFO_LEVEL -/
  regFifoLevel : Code
  /-- REG_BIT_FRAMING -/
  regBitFraming : Code
  /-- REG_TX_CONTROL -/
  regTxControl : Code
  /-- REG_TX_ASK -/
  regTxAsk : Code
  /-- TIMER_PROGRAM: the writes that program the chip's timer, in order -/
  timerProgram : List (Code × Byte)
  /-- CMD_IDLE -/
  cmdIdle : Byte
  /-- CMD_TRANSCEIVE -/
  cmdTransceive : Byte
  /-- CMD_SOFTRESET -/
  cmdSoftreset : Byte
  /-- IRQ_SET, one bit -/
  irqSet : Byte
  /-- IRQ_RX, one bit -/
  irqRx : Byte
  /-- IRQ_TIMER, one bit -/
  irqTimer : Byte
  /-- FIFO_FLUSH -/
  fifoFlush : Byte
  /-- BF_SHORT7 -/
  bfShort7 : Byte
  /-- BF_FULL8 -/
  bfFull8 : Byte
  /-- TX_EN, two bits -/
  txEn : Byte
  /-- ASK_VALUE -/
  askValue : Byte
  /-- WUP_BYTE, bit 7 clear -/
  wupByte : Byte
  /-- SEL_CL1 -/
  selCl1 : Byte
  /-- SEL_NVB -/
  selNvb : Byte
  /-- UNCONFIGURED_POLICY -/
  policy : Policy
deriving DecidableEq, Repr

/-- The result of a `T.init` that no script gives (R52: "a model takes it as a draw"). Free value, log 3. -/
opaque Config.initDraw : Nat → Bool

/-- The byte a register read delivers where no script gives one (R60): indexed by the draw counter and the address
byte. Free value, log 3. -/
opaque Config.readDraw : Nat → Byte → Byte

/-- The content of a staging byte this RDUID never wrote (R25, R177): any value, new at each RDUID. Free value,
log 4. -/
opaque Config.stgDraw : Nat → Byte

end Sys2Proof
end

