-- ==== Sys2Proof/Syntax.lean ====
section
/-! DEFINITION. The instructions: one constructor per row of spec/opcode_table.json (spec/30_encoding.md R94). -/

namespace Sys2Proof

/-- One constructor per row of the opcode table, in the table's order. -/
inductive Instr where
  /-- NOP, host code 00 (R85) -/
  | nop
  /-- INIT, host code 01 (R120) -/
  | init
  /-- RESET, host code 10 (R124) -/
  | reset
  /-- RDUID, host code 11 (R176); its operand is the UID bank, not encoded (R85) -/
  | rduid
  /-- WRREG code, value (R110) -/
  | wrreg (code : Code) (value : Byte)
  /-- RDREG code (R111) -/
  | rdreg (code : Code)
  /-- the row "(none)": transport request kind 00, no request (R51) -/
  | noRequest
  /-- TINIT, transport request kind 01 (R52) -/
  | tinit
  /-- TWRITE address, data; `size` is 1 (R53, R55) -/
  | twrite (address data : Byte)
  /-- TREAD address; `size` is 1 (R54, R55) -/
  | tread (address : Byte)
  /-- TMRCFG (R121) -/
  | tmrcfg
  /-- ASKCFG (R122) -/
  | askcfg
  /-- ANTON (R123) -/
  | anton
  /-- IRQCLR (R141) -/
  | irqclr
  /-- FLUSH (R142) -/
  | flush
  /-- XCHG cmd, framing (R143) -/
  | xchg (cmd : List Byte) (framing : Byte)
  /-- DETECT (R144) -/
  | detect
  /-- POLL (R161) -/
  | poll
  /-- UIDRD (R175) -/
  | uidrd
  /-- CMD_IDLE, carried to REG_COMMAND (R88) -/
  | cmdIdle
  /-- CMD_TRANSCEIVE, carried to REG_COMMAND (R88) -/
  | cmdTransceive
  /-- CMD_SOFTRESET, carried to REG_COMMAND (R88) -/
  | cmdSoftreset
  /-- WUP, the wake-up request, carried to REG_FIFO_DATA (R89) -/
  | wup
  /-- SEL, the Cascade Level 1 select, carried to REG_FIFO_DATA (R89) -/
  | sel
deriving DecidableEq, Repr

end Sys2Proof
end

