-- ==== Sys2Proof/WellFormed.lean ====
section
/-! DEFINITION. The checks: which operands the block ever produces (spec/30_encoding.md R92, spec/42 R143), and which
parameter sets the spec admits (spec/00_scope.md R6, spec/20_memory.md R58, spec/30_encoding.md R91). -/

namespace Sys2Proof

/-- The shape of an address byte the block produces: bit 0 is 0 and bit DIR_BIT is the direction flag (R81, R92 (a)). -/
def addressShape (read : Bool) (address : Byte) : Bool :=
  !address.getLsbD 0 && address.getLsbD dirBit == read

/-- An instruction with operands the block produces: TWRITE and TREAD address bytes of the right shape (R92 (a), R96),
and card commands of WUP_LEN or SEL_LEN bytes for XCHG (R143). -/
def Instr.wf : Instr → Bool
  | .twrite address _ => addressShape false address
  | .tread address => addressShape true address
  | .xchg cmd _ => cmd.length == wupLen || cmd.length == selLen
  | .nop | .init | .reset | .rduid | .wrreg _ _ | .rdreg _ | .noRequest | .tinit | .tmrcfg | .askcfg | .anton
  | .irqclr | .flush | .detect | .poll | .uidrd | .cmdIdle | .cmdTransceive | .cmdSoftreset | .wup | .sel => true

/-- How many bits of a byte are set. -/
def bitCount (b : Byte) : Nat :=
  ((List.range 8).filter (fun i => b.getLsbD i)).length

/-- The codes required pairwise distinct (R58); those inside TIMER_PROGRAM are left unconstrained. -/
def Params.codes (p : Params) : List Code :=
  [p.regCommand, p.regComIrq, p.regFifoData, p.regFifoLevel, p.regBitFraming, p.regTxControl, p.regTxAsk]

/-- R58: the register codes are pairwise distinct. -/
def Params.codesDistinct (p : Params) : Bool :=
  decide p.codes.Nodup

/-- R91: IRQ_SET, IRQ_RX, IRQ_TIMER have one bit each and are pairwise different. -/
def Params.masksOk (p : Params) : Bool :=
  bitCount p.irqSet == 1 && bitCount p.irqRx == 1 && bitCount p.irqTimer == 1 &&
    p.irqSet != p.irqRx && p.irqSet != p.irqTimer && p.irqRx != p.irqTimer

/-- R91: TX_EN has exactly two bits. -/
def Params.driversOk (p : Params) : Bool :=
  bitCount p.txEn == 2

/-- R6: WUP_BYTE has bit 7 clear. -/
def Params.wakeUpOk (p : Params) : Bool :=
  !p.wupByte.getLsbD 7

/-- A parameter set the spec admits (R6, R58, R91). -/
def Params.wf (p : Params) : Bool :=
  p.codesDistinct && p.masksOk && p.driversOk && p.wakeUpOk

end Sys2Proof
end

