-- ==== Sys2Proof/Decode.lean ====
section
/-! DEFINITION. The one encoding the source defines, the wire address byte (spec/30_encoding.md R81), and the codes of
the spec's ports: host operation codes (R85), transport request kinds (spec/20_memory.md R51), wire frames (R83, R84).
A decoder total on all of them, which rejects by name, and the encoder written from the same tables. -/

namespace Sys2Proof

/-- The direction flag, DIR_READ or DIR_WRITE (R5). -/
def dirFlag (read : Bool) : Byte :=
  BitVec.ofNat 8 (if read then dirRead else dirWrite)

/-- The wire address byte, `(direction_flag << 7) | (code << 1)` (R81). -/
def wireByte (read : Bool) (code : Code) : Byte :=
  (dirFlag read <<< dirBit) ||| (code.setWidth 8 <<< addrShift)

/-- The address byte of a write (R110). -/
def writeAddr (code : Code) : Byte :=
  wireByte false code

/-- The address byte of a read (R111). -/
def readAddr (code : Code) : Byte :=
  wireByte true code

/-- The code of an address byte: bits 6 to 1 (R87). -/
def wireCode (address : Byte) : Code :=
  address.extractLsb' addrShift codeBits

/-- A request on one of the block's ports. -/
inductive Request where
  /-- the host's command port shows the 2-bit code `op` (R28, R85) -/
  | host (op : BitVec 2)
  /-- the transport port shows a request: kind, address, wdata, size (R51) -/
  | transport (kind : BitVec 2) (address wdata : Byte) (size : Nat)
  /-- the bytes of one wire transaction, the first on the wire first (R80 (a), R83, R84) -/
  | frame (bytes : List Byte)
deriving DecidableEq, Repr

/-- Why a request is not one of the block's (R92). -/
inductive DecodeError where
  /-- a wire address byte with bit 0 set (R92 (a)) -/
  | addressBitZeroSet
  /-- a TWRITE address with bit 7 set, or a TREAD address with bit 7 clear (R96) -/
  | directionMismatch
  /-- a transport request with `size` other than 1 (R92 (c)) -/
  | sizeNotOne
  /-- a wire frame that is not two bytes (R93) -/
  | frameLength
  /-- a read frame whose second byte is not the filler 0x00 (R84) -/
  | fillerNotZero
deriving DecidableEq, Repr

/-- What decoding answers. -/
inductive Decoded where
  | instr (i : Instr)
  | rejected (e : DecodeError)
deriving DecidableEq, Repr

/-- The host operation codes (R85): all four are defined. -/
def decodeHost (op : BitVec 2) : Instr :=
  if op = 0 then .nop else if op = 1 then .init else if op = 2 then .reset else .rduid

/-- The check of `size` that every transport request passes: "a `size` that the block always drives to 1" (R51, R55,
R92 (c)). -/
def checkSize (size : Nat) (d : Decoded) : Decoded :=
  if size = accessSize then d else .rejected .sizeNotOne

/-- The check of the address byte of a TWRITE or TREAD request (R92 (a), R96), and the instruction it then is. -/
def checkAddress (read : Bool) (address : Byte) (i : Instr) : Decoded :=
  if address.getLsbD 0 then .rejected .addressBitZeroSet
  else if address.getLsbD dirBit != read then .rejected .directionMismatch
  else .instr i

/-- The transport request kinds (R51). DESIGN CHOICE (notes/assumptions/20.md), the spec being silent: `address` and
`wdata` of a TINIT and `wdata` of a TREAD may have any value, and kind 00 is no request whatever the other signals show. -/
def decodeTransport (kind : BitVec 2) (address wdata : Byte) (size : Nat) : Decoded :=
  if kind = 0 then .instr .noRequest
  else if kind = 1 then checkSize size (.instr .tinit)
  else if kind = 2 then checkSize size (checkAddress false address (.twrite address wdata))
  else checkSize size (checkAddress true address (.tread address))

/-- A wire frame (R83, R84, R87): two bytes, the address byte first. -/
def decodeFrame : List Byte → Decoded
  | [address, d] =>
    if address.getLsbD 0 then .rejected .addressBitZeroSet
    else if address.getLsbD dirBit = false then .instr (.wrreg (wireCode address) d)
    else if d = 0 then .instr (.rdreg (wireCode address))
    else .rejected .fillerNotZero
  | _ => .rejected .frameLength

/-- Decoding, total on every request of every port. -/
def decode : Request → Decoded
  | .host op => .instr (decodeHost op)
  | .transport kind address wdata size => decodeTransport kind address wdata size
  | .frame bytes => decodeFrame bytes

/-- The request an instruction is encoded as; none for a pseudo-instruction or a data constant, which have "no encoding
of [their] own" (R94, R95, R88, R89). DESIGN CHOICE (notes/assumptions/20.md), the spec being silent: `address` and `wdata`
are 0 in a transport request that does not use them. -/
def encode : Instr → Option Request
  | .nop => some (.host 0)
  | .init => some (.host 1)
  | .reset => some (.host 2)
  | .rduid => some (.host 3)
  | .wrreg code value => some (.frame [writeAddr code, value])
  | .rdreg code => some (.frame [readAddr code, 0])
  | .noRequest => some (.transport 0 0 0 accessSize)
  | .tinit => some (.transport 1 0 0 accessSize)
  | .twrite address data => some (.transport 2 address data accessSize)
  | .tread address => some (.transport 3 address 0 accessSize)
  | .tmrcfg | .askcfg | .anton | .irqclr | .flush | .xchg _ _ | .detect | .poll | .uidrd | .cmdIdle | .cmdTransceive
  | .cmdSoftreset | .wup | .sel => none

/-- The bytes of an `n`-byte table word, most significant first: the table writes a frame's address byte, the first on
the wire, in bits 15:8 (spec/opcode_table.json, row WRREG). -/
def tableBytes : Nat → Nat → List Byte
  | 0, _ => []
  | n + 1, w => BitVec.ofNat 8 (w / 256 ^ n) :: tableBytes n w

/-- The request an opcode-table word stands for: a word of at most 8 bits that fits in 2 is the host port's code, any
other word is a wire frame (notes/assumptions/10.md). -/
def tableRequest (nbits w : Nat) : Request :=
  if nbits ≤ 8 ∧ w < 4 then .host (BitVec.ofNat 2 w) else .frame (tableBytes ((nbits + 7) / 8) w)

/-- The instruction the decoder reads from an opcode-table word. -/
def decodeTableWord (nbits w : Nat) : Option Instr :=
  match decode (tableRequest nbits w) with
  | .instr i => some i
  | .rejected _ => none

end Sys2Proof
end

