-- ==== Sys2Proof/Machine/Profile.lean ====
section
/-! DEFINITION. The suggested parameter profile P-GK (spec/00_scope.md R7), which is from general knowledge and marked
PRESUMED (notes/assumptions/2.md). -/

namespace Sys2Proof.Machine

/-- Profile P-GK (R7), with the default UNCONFIGURED_POLICY `refuse` (R22). PRESUMED: no number here is the source's. -/
def profilePGK : Params where
  regCommand := 0x01#6
  regComIrq := 0x04#6
  regFifoData := 0x09#6
  regFifoLevel := 0x0A#6
  regBitFraming := 0x0D#6
  regTxControl := 0x14#6
  regTxAsk := 0x15#6
  timerProgram := [(0x2A#6, 0x80#8), (0x2B#6, 0xA9#8), (0x2C#6, 0x00#8), (0x2D#6, 0x13#8)]
  cmdIdle := 0x00#8
  cmdTransceive := 0x0C#8
  cmdSoftreset := 0x0F#8
  irqSet := 0x80#8
  irqRx := 0x20#8
  irqTimer := 0x01#8
  fifoFlush := 0x80#8
  bfShort7 := 0x87#8
  bfFull8 := 0x80#8
  txEn := 0x03#8
  askValue := 0x40#8
  wupByte := 0x52#8
  selCl1 := 0x93#8
  selNvb := 0x20#8
  policy := .refuse

end Sys2Proof.Machine
end

