-- ==== Sys2Proof/Machine/State.lean ====
section
/-! DEFINITION. The state of the block and of its boundary (spec/10_state.md R20 to R43), as plain data, and the state
after the block's own reset (R42, spec/70_reset_and_hazards.md R221). -/

namespace Sys2Proof.Machine

/-- DS, the driver lifecycle state (R21): three values; the encoding `11` is never produced (R92 (e)). -/
inductive DS where
  | uninitialized
  | transportReady
  | configured
deriving DecidableEq, Repr

/-- The phase of an RDUID (R23). -/
inductive Phase where
  /-- the detection exchange and its polling wait -/
  | det
  /-- the select exchange, its polling wait and the UID parse -/
  | sel
deriving DecidableEq, Repr

/-- `Status` (R27). -/
inductive Status where
  | ok
  | error
deriving DecidableEq, Repr

/-- What a call gave back (R27): nothing, a Status, a boolean, or a byte (RDREG and TREAD, R111, R54). -/
inductive Ret where
  | nothing
  | status (s : Status)
  | bool (b : Bool)
  | byte (b : Byte)
deriving DecidableEq, Repr

/-- The error taxonomy (R190): three kinds and no more. -/
inductive ErrorKind where
  /-- `T.init()` returned false at I1 -/
  | transportSetupError
  /-- a polling wait ended by the timer flag or by the budget -/
  | responseTimeout
  /-- the FIFO level read 0 at U1 -/
  | emptyResponse
deriving DecidableEq, Repr

/-- SITE, the sequencer's program counter (R23). P1's index is computed from BUDGET (R161) and U2's is IDX (R24). The
value `opEnd` carries what the end of the operation will deliver. -/
inductive Site where
  | idle
  | i1
  | i2
  | i3 (k : Nat)
  | i4
  | i5
  | i6
  | s1
  | x1 (ph : Phase)
  | x2 (ph : Phase)
  | x3 (ph : Phase)
  | x4 (ph : Phase)
  | x5 (ph : Phase) (i : Nat)
  | x6 (ph : Phase)
  | x7 (ph : Phase)
  | p1 (ph : Phase)
  | u1
  | u2
  | u3
  | opEnd (ret : Ret) (fail : Option ErrorKind)
deriving DecidableEq, Repr

/-- A transport event of the bus trace (R12). -/
inductive BusEvent where
  /-- `TI(ok)`: a call of `T.init` that returned `ok` -/
  | ti (ok : Bool)
  /-- `W(a, d)` -/
  | w (address data : Byte)
  /-- `R(a, d)` -/
  | r (address data : Byte)
deriving DecidableEq, Repr

/-- What the host does next (R26, R28, R206). The block takes a move only while SITE is `IDLE`. -/
inductive HostMove where
  /-- a request, run as one call from the state before to the state after (R28) -/
  | call (r : Request)
  /-- a host operation code, run site by site (R23) -/
  | start (op : BitVec 2)
  /-- the host writes a byte of its UID bank between operations (R26) -/
  | writeUid (i : Fin 4) (value : Byte)
deriving DecidableEq, Repr

/-- The machine's faults: there are none. "The block has no trap vector, no handler" and all failure is by return
status (R193); a transport call that never returns is assumed away (R56, notes/assumptions/8.md). -/
inductive Fault where
deriving DecidableEq, Repr

/-- Why a step has no meaning. -/
inductive Refusal where
  /-- Raised by exec for an instruction that has no meaning yet. Safe. -/
  | notModelled (mnemonic : String)
  /-- Raised by INIT, RESET, RDUID when SITE is not `IDLE`: an operation issued while the block is busy "has no meaning"
  (R28, D21). Safe: the model stops. -/
  | busy
  /-- Raised by RESET and RDUID when DS is not `Configured` and UNCONFIGURED_POLICY is `refuse` (R22, D13). Safe. -/
  | unconfigured
  /-- Raised by step for a request that is not one of the block's (R92). Safe. -/
  | illegalRequest (e : DecodeError)
  /-- Raised by step when SITE is no site of R23's table for the parameters and registers held. Safe. -/
  | illegalSite
deriving DecidableEq, Repr

/-- The machine state: what the spec gives the block and its boundary (R20 to R27, R12), and nothing else. No parameter is
a field of it (R41). -/
structure Block where
  /-- DS (R21) -/
  ds : DS
  /-- SITE (R23) -/
  site : Site
  /-- TMP (R24) -/
  tmp : Byte
  /-- S, the interrupt-status byte of the current poll (R24) -/
  sReg : Byte
  /-- BUDGET (R24) -/
  budget : BitVec 14
  /-- LVL (R24) -/
  lvl : Byte
  /-- N (R24) -/
  n : BitVec 3
  /-- IDX (R24) -/
  idx : BitVec 3
  /-- STG[0..3] (R25) -/
  stg : Bank
  /-- UID[0..3], the host's bank (R26) -/
  uid : Bank
  /-- what the last call gave back, at the host boundary (R27) -/
  ret : Ret
  /-- the bus trace (R12), newest event first; `State.busTrace` is the trace in order -/
  traceRev : List BusEvent
deriving DecidableEq, Repr

/-- A run of the block: the machine state, what is still to come from outside it (the host's moves and the environment's
answers), and the model's own bookkeeping. No parameter is a field of it (R41): see Machine/Parametric.lean. -/
structure Run extends Block where
  /-- the host's moves still to come, next first (R94) -/
  host : List HostMove
  /-- results of `T.init` a script gives, next first (R60) -/
  envInits : List Bool
  /-- (address byte, byte delivered) pairs a script gives, a queue per address (R60) -/
  envReads : List (Byte × Byte)
  /-- how many draws were made; the index of the free values -/
  draws : Nat
  /-- the ghost label of the last exit (R191) -/
  failKind : Option ErrorKind
deriving DecidableEq, Repr

/-- A run together with the parameters it is a run under, the argument that `exec` and `step` have no other place for
(R6, R22, R41; notes/assumptions/2.md). No step changes it. -/
structure State extends Run where
  /-- the argument: the parameters -/
  params : Params
deriving DecidableEq, Repr

/-- The bus trace in order, oldest event first (R12). -/
def State.busTrace (s : State) : List BusEvent :=
  s.traceRev.reverse

/-- A bank of four zero bytes. -/
def bankZero : Bank :=
  ⟨0, 0, 0, 0⟩

/-- The block out of its own reset (R42, R221): DS `Uninitialized`, SITE `IDLE`, no transport call made. The working
registers, STG and UID are unspecified by the spec: zero here is a DESIGN CHOICE (notes/assumptions/1.md). -/
def Block.reset : Block where
  ds := .uninitialized
  site := .idle
  tmp := 0
  sReg := 0
  budget := 0
  lvl := 0
  n := 0
  idx := 0
  stg := bankZero
  uid := bankZero
  ret := .nothing
  traceRev := []

/-- A run that starts from the block's reset: no move of the host, nothing scripted. -/
def Run.reset : Run where
  toBlock := Block.reset
  host := []
  envInits := []
  envReads := []
  draws := 0
  failKind := none

/-- A run under a parameter set. -/
def Run.under (p : Params) (r : Run) : State :=
  { toRun := r, params := p }

/-- The state after reset of a block built with any parameters. -/
def State.resetWith (p : Params) : State :=
  Run.reset.under p

/-- The state after reset of a block built with profile P-GK (R7), which is PRESUMED (notes/assumptions/2.md). -/
def State.reset : State :=
  State.resetWith profilePGK

end Sys2Proof.Machine
end

