-- ==== Sys2Proof/Machine/Ops.lean ====
section
/-! DEFINITION. The named operations: the environment's answers, the transport port's three calls (spec/20_memory.md
R52 to R54), the two register primitives (spec/40_register_access.md R110, R111), the block transfer (R112), the banks,
and the end of an operation, which is the one shared form of failing and of returning (spec/60_exceptions.md R193). -/

namespace Sys2Proof.Machine

/-! The environment (R60): every answer is the script's where it has one, else a free value. -/

/-- The first answer scripted for an address, if any: "for each read address, a queue of bytes delivered in order"
(spec/95_test_vectors.md). -/
def scriptFind (address : Byte) : List (Byte × Byte) → Option Byte
  | [] => none
  | (a, d) :: rest => if a = address then some d else scriptFind address rest

/-- The script without the first answer for an address. -/
def scriptDrop (address : Byte) : List (Byte × Byte) → List (Byte × Byte)
  | [] => []
  | (a, d) :: rest => if a = address then rest else (a, d) :: scriptDrop address rest

/-- What the next `T.init()` returns (R52). -/
def initAnswer (s : State) : Bool :=
  s.envInits.head?.getD (Config.initDraw s.draws)

/-- The byte the next `T.readBytes(address, 1)` delivers (R54, R60). -/
def readAnswer (address : Byte) (s : State) : Byte :=
  (scriptFind address s.envReads).getD (Config.readDraw s.draws address)

/-! The transport port (R50): each call adds exactly one event to the trace. -/

/-- `T.init()` (R52); its result is `initAnswer` of the state before. -/
def transportInit (s : State) : State :=
  { s with
    envInits := s.envInits.tail
    draws := s.draws + 1
    traceRev := .ti (initAnswer s) :: s.traceRev }

/-- `T.writeBytes(address, [data], 1)` (R53): no status comes back. -/
def transportWrite (address data : Byte) (s : State) : State :=
  { s with traceRev := .w address data :: s.traceRev }

/-- `T.readBytes(address, 1)` (R54); the byte delivered is `readAnswer` of the state before. -/
def transportRead (address : Byte) (s : State) : State :=
  { s with
    envReads := scriptDrop address s.envReads
    draws := s.draws + 1
    traceRev := .r address (readAnswer address s) :: s.traceRev }

/-- The bytes the block's side drives on the wire in one event's transaction: the address byte, then the data byte of a
write (R53) or one filler zero byte of a read (R54, R84); `T.init` drives none. -/
def BusEvent.driven : BusEvent → List Byte
  | .ti _ => []
  | .w address data => [address, data]
  | .r address _ => [address, 0]

/-! The register primitives. -/

/-- `MemWrite(code, 1, v)`, WRREG (R110). -/
def memWrite (code : Code) (v : Byte) (s : State) : State :=
  transportWrite (writeAddr code) v s

/-- `MemRead(code, 1)`, RDREG (R111): the state after; the byte read is `memReadByte` of the state before. -/
def memRead (code : Code) (s : State) : State :=
  transportRead (readAddr code) s

/-- The byte `MemRead(code, 1)` returns (R111). -/
def memReadByte (code : Code) (s : State) : Byte :=
  readAnswer (readAddr code) s

/-- Block transfer to one register (R112): one WRREG per byte, same address, element 0 first. -/
def writeBlock (code : Code) : List Byte → State → State
  | [], s => s
  | v :: rest, s => writeBlock code rest (memWrite code v s)

/-! The banks. -/

/-- `B[i]` of a bank (R9). -/
def bankGet (b : Bank) (i : Fin 4) : Byte :=
  match i with
  | 0 => b.b0
  | 1 => b.b1
  | 2 => b.b2
  | 3 => b.b3

/-- `B[i] <- v`; an index above 3 does not arise (R24: IDX is 0 to 3 where a byte is written) and changes nothing. -/
def bankSet (b : Bank) (i : Nat) (v : Byte) : Bank :=
  match i with
  | 0 => { b with b0 := v }
  | 1 => { b with b1 := v }
  | 2 => { b with b2 := v }
  | 3 => { b with b3 := v }
  | _ => b

/-- STG with every byte this RDUID did not write, those from N on, replaced by a draw (R25, R177; log 4). -/
def settledStaging (s : State) : Bank where
  b0 := if s.n.toNat ≤ 0 then Config.stgDraw s.draws else s.stg.b0
  b1 := if s.n.toNat ≤ 1 then Config.stgDraw (s.draws + 1) else s.stg.b1
  b2 := if s.n.toNat ≤ 2 then Config.stgDraw (s.draws + 2) else s.stg.b2
  b3 := if s.n.toNat ≤ 3 then Config.stgDraw (s.draws + 3) else s.stg.b3

/-- The commit, site U3 (R174): UID[0..3] <- STG[0..3] in one step, no transport call. IDX is left at its bound UID_SIZE
(R24; notes/assumptions/9.md). -/
def commit (s : State) : State :=
  { s with
    stg := settledStaging s
    uid := settledStaging s
    idx := BitVec.ofNat 3 uidSize
    draws := s.draws + 4 }

/-- The host writes one byte of its UID bank (R26). -/
def writeUid (i : Fin 4) (v : Byte) (s : State) : State :=
  { s with uid := bankSet s.uid i.val v }

/-! Ending and admitting an operation. -/

/-- The end of an instruction: its return value is delivered (R27, R207), and the ghost label says which failing exit, if
any, ended it (R191). `fail <Kind>` "ends the operation exactly as a successful one does ... with a different return
value" (R193): this is the one shared operation for both. -/
def deliver (ret : Ret) (fail : Option ErrorKind) (s : State) : State :=
  { s with ret := ret, failKind := fail }

/-- The end of a procedure with a boolean result: true when no failing exit was taken (R175, R176). -/
def deliverBool (x : Option ErrorKind × State) : State :=
  deliver (.bool x.1.isNone) x.1 x.2

/-- May a host operation be issued? Not while the block is busy (R28); RESET and RDUID only when DS is `Configured`,
unless UNCONFIGURED_POLICY is `ungated` (R22). -/
def hostGate (p : Params) (needsConfigured : Bool) (s : State) : Option Refusal :=
  if s.site ≠ .idle then some .busy
  else if needsConfigured = true ∧ s.ds ≠ .configured ∧ p.policy = .refuse then some .unconfigured
  else none

end Sys2Proof.Machine
end

