-- ==== Sys2Proof/Machine/RegAccess.lean ====
section
/-! DEFINITION. The register access primitives of spec/40_register_access.md: WRREG (R110) and RDREG (R111). -/

namespace Sys2Proof.Machine

/-- WRREG (R110): one transaction, event `W((0 << 7) | (code << 1), value)`; no value, no status. -/
def execWrreg (code : Code) (value : Byte) (s : State) : Host.Outcome State Fault Refusal :=
  .next (deliver .nothing none (memWrite code value s))

/-- RDREG (R111): one transaction, event `R((1 << 7) | (code << 1), d)`; returns the draw `d`. -/
def execRdreg (code : Code) (s : State) : Host.Outcome State Fault Refusal :=
  .next (deliver (.byte (memReadByte code s)) none (memRead code s))

end Sys2Proof.Machine
end

