-- ==== Sys2Proof/Machine/Operands.lean ====
section
/-! DEFINITION. The operand forms. There is one addressing mode, direct by a constant 6-bit code (spec/40 R113), which
the register primitives of Ops.lean take as it is; the other operands are card commands with their framing value
(spec/30_encoding.md R89, R90) and the indices the registers hold (spec/10_state.md R24). And the encodings the spec
chooses for the block's enumerated values (R21, R27). -/

namespace Sys2Proof.Machine

/-- A card command: its bytes, element 0 sent first, the significant bits of its last byte, and the bit-framing value it
is sent with (R89). -/
structure CardCommand where
  bytes : List Byte
  sigBits : Nat
  framing : Byte
deriving DecidableEq, Repr

/-- WUP, the wake-up request: one byte, 7 significant bits, BF_SHORT7 (R89; WUP_LEN and WUP_BITS of R5). -/
def wupCommand (p : Params) : CardCommand where
  bytes := [p.wupByte]
  sigBits := wupBits
  framing := p.bfShort7

/-- SEL, the Cascade Level 1 select: two bytes, full 8-bit framing, BF_FULL8 (R89; SEL_LEN of R5). -/
def selCommand (p : Params) : CardCommand where
  bytes := [p.selCl1, p.selNvb]
  sigBits := 8
  framing := p.bfFull8

/-- The card command of a phase of RDUID (R144, R172). -/
def cardCommand (p : Params) : Phase → CardCommand
  | .det => wupCommand p
  | .sel => selCommand p

/-- The index j of the poll about to be made: j = POLL_BUDGET - BUDGET + 1 (R161). -/
def pollIndex (s : State) : Nat :=
  pollBudget - s.budget.toNat + 1

/-- The 2-bit encoding of DS (R21). -/
def encodeDS : DS → BitVec 2
  | .uninitialized => 0
  | .transportReady => 1
  | .configured => 2

/-- The lifecycle state a 2-bit value encodes; `11` is none (R21, R92 (e)). -/
def decodeDS (v : BitVec 2) : Option DS :=
  if v = 0 then some .uninitialized
  else if v = 1 then some .transportReady
  else if v = 2 then some .configured
  else none

/-- A return value on the one-bit output: OK = 0, ERROR = 1, false = 0, true = 1 (R27). -/
def retBit : Ret → Option (BitVec 1)
  | .status .ok => some 0
  | .status .error => some 1
  | .bool false => some 0
  | .bool true => some 1
  | .nothing => none
  | .byte _ => none

end Sys2Proof.Machine
end

