-- ==== Sys2Proof/Machine/Constants.lean ====
section
/-! DEFINITION. The constants that travel as the data byte of a write (spec/30_encoding.md R80 (d)): the chip commands
(R88) and the card commands (R89). As an instruction, each is the write or writes that carry it
(notes/assumptions/7.md). -/

namespace Sys2Proof.Machine

/-- Write a chip command to the command register, "as the whole data byte of a WRREG to REG_COMMAND" (R88, R31). -/
def chipCommand (p : Params) (cmd : Byte) (s : State) : State :=
  memWrite p.regCommand cmd s

/-- Load a card command's bytes into the FIFO, one WRREG to REG_FIFO_DATA per byte, element 0 first (R61, R143 step 4). -/
def loadCard (p : Params) (bytes : List Byte) (s : State) : State :=
  writeBlock p.regFifoData bytes s

/-- CMD_IDLE (R88; site X1): cancel any in-flight operation. -/
def execCmdIdle (s : State) : Host.Outcome State Fault Refusal :=
  .next (deliver .nothing none (chipCommand s.params s.params.cmdIdle s))

/-- CMD_TRANSCEIVE (R88; site X6). -/
def execCmdTransceive (s : State) : Host.Outcome State Fault Refusal :=
  .next (deliver .nothing none (chipCommand s.params s.params.cmdTransceive s))

/-- CMD_SOFTRESET (R88; sites I2 and S1): it acts on the chip and changes no block state (R220 (b), R222). -/
def execCmdSoftreset (s : State) : Host.Outcome State Fault Refusal :=
  .next (deliver .nothing none (chipCommand s.params s.params.cmdSoftreset s))

/-- WUP (R89; site X5[0] of phase DET). -/
def execWup (s : State) : Host.Outcome State Fault Refusal :=
  .next (deliver .nothing none (loadCard s.params (wupCommand s.params).bytes s))

/-- SEL (R89; sites X5[0], X5[1] of phase SEL). -/
def execSel (s : State) : Host.Outcome State Fault Refusal :=
  .next (deliver .nothing none (loadCard s.params (selCommand s.params).bytes s))

end Sys2Proof.Machine
end

