-- ==== Sys2Proof/Machine/Flags.lean ====
section
/-! DEFINITION. The flag computations. The block has no flags register (spec/10_state.md R29): these are the tests and
masks on bytes just read (spec/00_scope.md R13 (b), (c)). -/

namespace Sys2Proof.Machine

/-- "response received": `(S & IRQ_RX) != 0` (R161). -/
def rxSeen (p : Params) (v : Byte) : Bool :=
  v &&& p.irqRx != 0

/-- "timer expired": `(S & IRQ_TIMER) != 0` (R161). -/
def timerSeen (p : Params) (v : Byte) : Bool :=
  v &&& p.irqTimer != 0

/-- At least one transmit-driver bit is clear: `(TMP & TX_EN) != TX_EN` (R123). -/
def driverClear (p : Params) (v : Byte) : Bool :=
  v &&& p.txEn != p.txEn

/-- The byte ANTON writes back: `TMP | TX_EN` (R123). -/
def driversSet (p : Params) (v : Byte) : Byte :=
  v ||| p.txEn

/-- The byte IRQCLR writes back: `TMP & ~IRQ_SET` (R141). -/
def irqCleared (p : Params) (v : Byte) : Byte :=
  v &&& ~~~p.irqSet

/-- The clamp: `min(LVL, 4)` (R173), 0 to 4 in 3 bits (R24). -/
def clampLevel (lvl : Byte) : BitVec 3 :=
  BitVec.ofNat 3 (min lvl.toNat uidSize)

end Sys2Proof.Machine
end

