-- ==== Sys2Proof/Machine/InitReset.lean ====
section
/-! DEFINITION. Initialisation and reset, spec/41_init_reset.md: NOP (R85), TMRCFG (R121), ASKCFG (R122), ANTON (R123),
INIT (R120), RESET (R124). No wait follows a soft reset (R128). -/

namespace Sys2Proof.Machine

/-- TMRCFG over a timer program (R121): plain writes in list order, sites I3[k]. -/
def writeProgram : List (Code × Byte) → State → State
  | [], s => s
  | (code, value) :: rest, s => writeProgram rest (memWrite code value s)

/-- proc TMRCFG (R121). -/
def tmrcfg (p : Params) (s : State) : State :=
  writeProgram p.timerProgram s

/-- proc ASKCFG (R122): one plain write, site I4. -/
def askcfg (p : Params) (s : State) : State :=
  memWrite p.regTxAsk p.askValue s

/-- The read of ANTON, site I5 (R123): TMP <- MemRead(REG_TX_CONTROL, 1). -/
def antonRead (p : Params) (s : State) : State :=
  { memRead p.regTxControl s with tmp := memReadByte p.regTxControl s }

/-- The write of ANTON, site I6 (R123): both driver bits set, every other bit as read. -/
def antonWrite (p : Params) (s : State) : State :=
  memWrite p.regTxControl (driversSet p s.tmp) s

/-- proc ANTON (R123): exactly one read; a write only if at least one driver bit read clear. -/
def anton (p : Params) (s : State) : State :=
  let s1 := antonRead p s
  if driverClear p s1.tmp then antonWrite p s1 else s1

/-- Steps 2 to 5 of INIT, once the transport is up (R120): DS through `TransportReady` to `Configured`. -/
def configure (p : Params) (s : State) : State :=
  let s1 := { s with ds := .transportReady }
  let s2 := chipCommand p p.cmdSoftreset s1
  let s3 := anton p (askcfg p (tmrcfg p s2))
  deliver (.status .ok) none { s3 with ds := .configured }

/-- proc INIT (R120). If `T.init()` returns false: ERROR, DS unchanged, no register access at all. -/
def initProc (p : Params) (s : State) : State :=
  let s1 := transportInit s
  if initAnswer s then configure p s1 else deliver (.status .error) (some .transportSetupError) s1

/-- proc RESET (R124): one soft-reset write and nothing else; no result. -/
def resetProc (p : Params) (s : State) : State :=
  deliver .nothing none (chipCommand p p.cmdSoftreset s)

/-- NOP (R85): no transport call, no state change, no return value; in any state (spec/95 V13). -/
def execNop (s : State) : Host.Outcome State Fault Refusal :=
  .next s

/-- TMRCFG (R121). -/
def execTmrcfg (s : State) : Host.Outcome State Fault Refusal :=
  .next (deliver .nothing none (tmrcfg s.params s))

/-- ASKCFG (R122). -/
def execAskcfg (s : State) : Host.Outcome State Fault Refusal :=
  .next (deliver .nothing none (askcfg s.params s))

/-- ANTON (R123). -/
def execAnton (s : State) : Host.Outcome State Fault Refusal :=
  .next (deliver .nothing none (anton s.params s))

/-- INIT (R120): legal in every value of DS (R22), and issued only while the block is idle (R28). -/
def execInit (s : State) : Host.Outcome State Fault Refusal :=
  match hostGate s.params false s with
  | some r => .refused r
  | none => .next (initProc s.params s)

/-- RESET (R124): it has a meaning when DS is `Configured`, or under policy `ungated` (R22). -/
def execReset (s : State) : Host.Outcome State Fault Refusal :=
  match hostGate s.params true s with
  | some r => .refused r
  | none => .next (resetProc s.params s)

end Sys2Proof.Machine
end

