-- ==== Sys2Proof/Machine/Polling.lean ====
section
/-! DEFINITION. The polling supervisor, spec/43_polling.md: POLL (R161). -/

namespace Sys2Proof.Machine

/-- The read of one poll, site P1[j] (R161): S <- MemRead(REG_COMIRQ, 1). -/
def pollRead (p : Params) (s : State) : State :=
  { memRead p.regComIrq s with sReg := memReadByte p.regComIrq s }

/-- The loop of POLL with BUDGET = k (R161): one read, then response received, then timer expired, then the budget, all
on the one byte read (R162). With BUDGET 0 the wait is over: false. -/
def pollLoop (p : Params) : Nat → State → Bool × State
  | 0, s => (false, s)
  | k + 1, s =>
    let s1 := pollRead p s
    if rxSeen p s1.sReg then (true, s1)
    else if timerSeen p s1.sReg then (false, s1)
    else pollLoop p k { s1 with budget := BitVec.ofNat 14 k }

/-- POLL with a budget given: BUDGET is loaded, then the loop runs (R161). -/
def pollFrom (p : Params) (b : Nat) (s : State) : Bool × State :=
  pollLoop p b { s with budget := BitVec.ofNat 14 b }

/-- proc POLL (R161): BUDGET reloaded with POLL_BUDGET at every call; true = response received. -/
def poll (p : Params) (s : State) : Bool × State :=
  pollFrom p pollBudget s

/-- The exit of a polling wait: a false result is the ResponseTimeout kind (R161, R190). -/
def pollExit (x : Bool × State) : Option ErrorKind × State :=
  (if x.1 then none else some .responseTimeout, x.2)

/-- POLL (R161). -/
def execPoll (s : State) : Host.Outcome State Fault Refusal :=
  .next (deliverBool (pollExit (poll s.params s)))

end Sys2Proof.Machine
end

