-- ==== Sys2Proof/Machine/Exchange.lean ====
section
/-! DEFINITION. The card-command exchange, spec/42_exchange_detect.md: IRQCLR (R141), FLUSH (R142), XCHG (R143), DETECT
(R144). It does nothing R145 excludes. -/

namespace Sys2Proof.Machine

/-- The read of IRQCLR, site X2 (R141): TMP <- MemRead(REG_COMIRQ, 1). -/
def irqRead (p : Params) (s : State) : State :=
  { memRead p.regComIrq s with tmp := memReadByte p.regComIrq s }

/-- The write of IRQCLR, site X3 (R141): the IRQ_SET bit 0, every other bit as read. -/
def irqWrite (p : Params) (s : State) : State :=
  memWrite p.regComIrq (irqCleared p s.tmp) s

/-- proc IRQCLR (R141): the write always happens. -/
def irqclr (p : Params) (s : State) : State :=
  irqWrite p (irqRead p s)

/-- proc FLUSH (R142): one plain write, site X4. -/
def flush (p : Params) (s : State) : State :=
  memWrite p.regFifoLevel p.fifoFlush s

/-- The framing write of XCHG, site X7 (R143 step 6): start send. -/
def startSend (p : Params) (framing : Byte) (s : State) : State :=
  memWrite p.regBitFraming framing s

/-- proc XCHG (R143): Idle, flag clear, flush, FIFO writes, Transceive, framing; the order is part of the contract. -/
def xchg (p : Params) (cmd : List Byte) (framing : Byte) (s : State) : State :=
  let s1 := chipCommand p p.cmdIdle s
  let s2 := irqclr p s1
  let s3 := flush p s2
  let s4 := loadCard p cmd s3
  let s5 := chipCommand p p.cmdTransceive s4
  startSend p framing s5

/-- The exchange with one of the block's two card commands (R144, R172). -/
def sendCard (p : Params) (c : CardCommand) (s : State) : State :=
  xchg p c.bytes c.framing s

/-- proc DETECT (R144): the exchange with the wake-up request, then the polling wait. -/
def detect (p : Params) (s : State) : Bool × State :=
  poll p (sendCard p (wupCommand p) s)

/-- IRQCLR (R141). -/
def execIrqclr (s : State) : Host.Outcome State Fault Refusal :=
  .next (deliver .nothing none (irqclr s.params s))

/-- FLUSH (R142). -/
def execFlush (s : State) : Host.Outcome State Fault Refusal :=
  .next (deliver .nothing none (flush s.params s))

/-- XCHG (R143): returns nothing and cannot fail. -/
def execXchg (cmd : List Byte) (framing : Byte) (s : State) : Host.Outcome State Fault Refusal :=
  .next (deliver .nothing none (xchg s.params cmd framing s))

/-- DETECT (R144): "card present". -/
def execDetect (s : State) : Host.Outcome State Fault Refusal :=
  .next (deliverBool (pollExit (detect s.params s)))

end Sys2Proof.Machine
end

