-- ==== Sys2Proof/Machine/UidRetrieval.lean ====
section
/-! DEFINITION. The UID FIFO parser and RDUID, spec/44_uid_retrieval.md: UIDRD (R175), RDUID (R176). -/

namespace Sys2Proof.Machine

/-- The level read, site U1 (R173): LVL <- MemRead(REG_FIFO_LEVEL, 1), the whole byte, no bit masked. -/
def levelRead (p : Params) (s : State) : State :=
  { memRead p.regFifoLevel s with lvl := memReadByte p.regFifoLevel s }

/-- The clamp after U1 (R173): N <- min(LVL, 4), and the index starts at 0. -/
def startParse (s : State) : State :=
  { s with n := clampLevel s.lvl, idx := 0 }

/-- One FIFO read, site U2[IDX] (R174): STG[IDX] <- MemRead(REG_FIFO_DATA, 1). -/
def stageByte (p : Params) (s : State) : State :=
  { memRead p.regFifoData s with
    stg := bankSet s.stg s.idx.toNat (memReadByte p.regFifoData s)
    idx := s.idx + 1 }

/-- `k` FIFO reads in order, the same address every time (R112, R174). -/
def stageBytes (p : Params) : Nat → State → State
  | 0, s => s
  | k + 1, s => stageBytes p k (stageByte p s)

/-- Steps 5 and 6 of UID retrieval, once the level is not 0 (R175): clamp, N reads, commit. -/
def parseUid (p : Params) (s : State) : State :=
  let s1 := startParse s
  commit (stageBytes p s1.n.toNat s1)

/-- Steps 3 to 6 of UID retrieval (R175): the level, the zero test, the parse. -/
def retrieve (p : Params) (s : State) : Option ErrorKind × State :=
  let s1 := levelRead p s
  if s1.lvl = 0 then (some .emptyResponse, s1) else (none, parseUid p s1)

/-- proc UIDRD (R175): the select exchange, the polling wait, then retrieval; `none` is success. -/
def uidrd (p : Params) (s : State) : Option ErrorKind × State :=
  match poll p (sendCard p (selCommand p) s) with
  | (false, s1) => (some .responseTimeout, s1)
  | (true, s1) => retrieve p s1

/-- proc RDUID (R176): detection, then UID retrieval if a card is present. -/
def rduid (p : Params) (s : State) : Option ErrorKind × State :=
  match detect p s with
  | (false, s1) => (some .responseTimeout, s1)
  | (true, s1) => uidrd p s1

/-- UIDRD (R175). -/
def execUidrd (s : State) : Host.Outcome State Fault Refusal :=
  .next (deliverBool (uidrd s.params s))

/-- RDUID (R176): it has a meaning when DS is `Configured`, or under policy `ungated` (R22). -/
def execRduid (s : State) : Host.Outcome State Fault Refusal :=
  match hostGate s.params true s with
  | some r => .refused r
  | none => .next (deliverBool (rduid s.params s))

end Sys2Proof.Machine
end

