-- ==== Sys2Proof/Machine/Sites.lean ====
section
/-! DEFINITION. The site table of spec/10_state.md R23: the sequencer one transport call at a time. -/

namespace Sys2Proof.Machine

/-- The site after I2 or I3[k - 1] (R23): I3[k], or I4 after the last entry of TIMER_PROGRAM. -/
def timerSite (p : Params) (k : Nat) : Site :=
  if k < p.timerProgram.length then .i3 k else .i4

/-- The site after X4 or X5[i - 1] (R23): X5[i], or X6 after the last byte of the card command. -/
def loadSite (p : Params) (ph : Phase) (i : Nat) : Site :=
  if i < (cardCommand p ph).bytes.length then .x5 ph i else .x6 ph

/-- The site a successful polling wait goes to (R23): (SEL, X1) from phase DET, (SEL, U1) from phase SEL. -/
def foundSite : Phase → Site
  | .det => .x1 .sel
  | .sel => .u1

/-- The END of INIT with OK (R120): DS is `Configured` only now. -/
def initDone (s : State) : State :=
  { s with ds := .configured, site := .opEnd (.status .ok) none }

/-- The END of a failing RDUID (R176). -/
def rduidFailed (kind : ErrorKind) (s : State) : State :=
  { s with site := .opEnd (.bool false) (some kind) }

/-- Site I1 (R23, R120). -/
def siteI1 (s : State) : State :=
  let s1 := transportInit s
  if initAnswer s then { s1 with ds := .transportReady, site := .i2 }
  else { s1 with site := .opEnd (.status .error) (some .transportSetupError) }

/-- Site I5 (R23, R123). -/
def siteI5 (p : Params) (s : State) : State :=
  let s1 := antonRead p s
  if driverClear p s1.tmp then { s1 with site := .i6 } else initDone s1

/-- Site P1[j] (R23, R161). -/
def siteP1 (p : Params) (ph : Phase) (s : State) : State :=
  let s1 := pollRead p s
  if rxSeen p s1.sReg then { s1 with site := foundSite ph }
  else if timerSeen p s1.sReg then rduidFailed .responseTimeout s1
  else
    let s2 := { s1 with budget := s1.budget - 1 }
    if s2.budget = 0 then rduidFailed .responseTimeout s2 else { s2 with site := .p1 ph }

/-- Site U1 (R23, R173). -/
def siteU1 (p : Params) (s : State) : State :=
  let s1 := levelRead p s
  if s1.lvl = 0 then rduidFailed .emptyResponse s1 else { startParse s1 with site := .u2 }

/-- Site U2[IDX] (R23, R174). -/
def siteU2 (p : Params) (s : State) : State :=
  let s1 := stageByte p s
  { s1 with site := if s1.idx.toNat < s1.n.toNat then .u2 else .u3 }

/-- One site (R23): its one transport call, if it has one, and the next site. -/
def siteStep (p : Params) (s : State) : State :=
  match s.site with
  | .idle => s
  | .i1 => siteI1 s
  | .i2 => { chipCommand p p.cmdSoftreset s with site := timerSite p 0 }
  | .i3 k => { writeProgram (p.timerProgram[k]?).toList s with site := timerSite p (k + 1) }
  | .i4 => { askcfg p s with site := .i5 }
  | .i5 => siteI5 p s
  | .i6 => initDone (antonWrite p s)
  | .s1 => { chipCommand p p.cmdSoftreset s with site := .opEnd .nothing none }
  | .x1 ph => { chipCommand p p.cmdIdle s with site := .x2 ph }
  | .x2 ph => { irqRead p s with site := .x3 ph }
  | .x3 ph => { irqWrite p s with site := .x4 ph }
  | .x4 ph => { flush p s with site := loadSite p ph 0 }
  | .x5 ph i => { loadCard p ((cardCommand p ph).bytes[i]?).toList s with site := loadSite p ph (i + 1) }
  | .x6 ph => { chipCommand p p.cmdTransceive s with site := .x7 ph }
  | .x7 ph =>
    { startSend p (cardCommand p ph).framing s with site := .p1 ph, budget := BitVec.ofNat 14 pollBudget }
  | .p1 ph => siteP1 p ph s
  | .u1 => siteU1 p s
  | .u2 => siteU2 p s
  | .u3 => { commit s with site := .opEnd (.bool true) none }
  | .opEnd ret fail => deliver ret fail { s with site := .idle }

/-- Is SITE one of R23's table, with the registers its index stands in? I3[k] with k below the length of TIMER_PROGRAM,
X5[i] with i below the command's length, P1[j] with j from 1 to POLL_BUDGET, U2[i] with i below N. -/
def siteLegal (p : Params) (s : State) : Bool :=
  match s.site with
  | .i3 k => decide (k < p.timerProgram.length)
  | .x5 ph i => decide (i < (cardCommand p ph).bytes.length)
  | .p1 _ => decide (1 ≤ s.budget.toNat ∧ s.budget.toNat ≤ pollBudget)
  | .u2 => decide (s.idx.toNat < s.n.toNat ∧ s.n.toNat ≤ uidSize)
  | .u3 => decide (s.n.toNat ≤ uidSize)
  | .idle | .i1 | .i2 | .i4 | .i5 | .i6 | .s1 | .x1 _ | .x2 _ | .x3 _ | .x4 _ | .x6 _ | .x7 _ | .u1 | .opEnd _ _ => true

/-- Run the sequencer for `k` sites. -/
def siteRun (p : Params) : Nat → State → State
  | 0, s => s
  | k + 1, s => siteRun p k (siteStep p s)

/-- The operation of a host code entered at its first site (R23, R28, R85); NOP stays idle. -/
def enterOperation (p : Params) (op : BitVec 2) (s : State) : Host.Outcome State Fault Refusal :=
  match decodeHost op with
  | .init => match hostGate p false s with
    | some r => .refused r
    | none => .next { s with site := .i1 }
  | .reset => match hostGate p true s with
    | some r => .refused r
    | none => .next { s with site := .s1 }
  | .rduid => match hostGate p true s with
    | some r => .refused r
    | none => .next { s with site := .x1 .det }
  | _ => .next s

/-- Advance a running operation by one site; a SITE that is none of R23's has no meaning (notes/assumptions/11.md). -/
def advance (p : Params) (s : State) : Host.Outcome State Fault Refusal :=
  if siteLegal p s then .next (siteStep p s) else .refused .illegalSite

/-- The event a site's transport call makes (R23's third column); none at IDLE, U3 and END. -/
def siteEvent (p : Params) (s : State) : Option BusEvent :=
  match s.site with
  | .idle | .u3 | .opEnd _ _ => none
  | .i1 => some (.ti (initAnswer s))
  | .i2 | .s1 => some (.w (writeAddr p.regCommand) p.cmdSoftreset)
  | .i3 k => (p.timerProgram[k]?).map (fun e => .w (writeAddr e.1) e.2)
  | .i4 => some (.w (writeAddr p.regTxAsk) p.askValue)
  | .i5 => some (.r (readAddr p.regTxControl) (memReadByte p.regTxControl s))
  | .i6 => some (.w (writeAddr p.regTxControl) (driversSet p s.tmp))
  | .x1 _ => some (.w (writeAddr p.regCommand) p.cmdIdle)
  | .x2 _ | .p1 _ => some (.r (readAddr p.regComIrq) (memReadByte p.regComIrq s))
  | .x3 _ => some (.w (writeAddr p.regComIrq) (irqCleared p s.tmp))
  | .x4 _ => some (.w (writeAddr p.regFifoLevel) p.fifoFlush)
  | .x5 ph i => ((cardCommand p ph).bytes[i]?).map (fun b => .w (writeAddr p.regFifoData) b)
  | .x6 _ => some (.w (writeAddr p.regCommand) p.cmdTransceive)
  | .x7 ph => some (.w (writeAddr p.regBitFraming) (cardCommand p ph).framing)
  | .u1 => some (.r (readAddr p.regFifoLevel) (memReadByte p.regFifoLevel s))
  | .u2 => some (.r (readAddr p.regFifoData) (memReadByte p.regFifoData s))

end Sys2Proof.Machine
end

