-- ==== Sys2Proof/Machine/Transport.lean ====
section
/-! DEFINITION. The transport request kinds of spec/20_memory.md R51 to R54: (none), TINIT, TWRITE, TREAD. -/

namespace Sys2Proof.Machine

/-- The row "(none)", request kind 00: no request is made, nothing happens (R51, R92 (f)). -/
def execNoRequest (s : State) : Host.Outcome State Fault Refusal :=
  .next s

/-- TINIT, `ok <- T.init()` (R52): one event `TI(ok)`; `ok` is a draw. -/
def execTinit (s : State) : Host.Outcome State Fault Refusal :=
  .next (deliver (.bool (initAnswer s)) none (transportInit s))

/-- TWRITE, `T.writeBytes(address, [data], 1)` (R53): one event `W(address, data)`, no status. -/
def execTwrite (address data : Byte) (s : State) : Host.Outcome State Fault Refusal :=
  .next (deliver .nothing none (transportWrite address data s))

/-- TREAD, `[d] <- T.readBytes(address, 1)` (R54): one event `R(address, d)`; `d` is a draw. -/
def execTread (address : Byte) (s : State) : Host.Outcome State Fault Refusal :=
  .next (deliver (.byte (readAnswer address s)) none (transportRead address s))

end Sys2Proof.Machine
end

