-- ==== Sys2Proof/Machine/Dispatch.lean ====
section
/-! DEFINITION. One arm per instruction, each one call of its meaning. -/

namespace Sys2Proof.Machine

def exec (i : Instr) (s : State) : Host.Outcome State Fault Refusal :=
  match i with
  | .nop => Sys2Proof.Machine.execNop s
  | .init => Sys2Proof.Machine.execInit s
  | .reset => Sys2Proof.Machine.execReset s
  | .rduid => Sys2Proof.Machine.execRduid s
  | .wrreg code value => Sys2Proof.Machine.execWrreg code value s
  | .rdreg code => Sys2Proof.Machine.execRdreg code s
  | .noRequest => Sys2Proof.Machine.execNoRequest s
  | .tinit => Sys2Proof.Machine.execTinit s
  | .twrite address data => Sys2Proof.Machine.execTwrite address data s
  | .tread address => Sys2Proof.Machine.execTread address s
  | .tmrcfg => Sys2Proof.Machine.execTmrcfg s
  | .askcfg => Sys2Proof.Machine.execAskcfg s
  | .anton => Sys2Proof.Machine.execAnton s
  | .irqclr => Sys2Proof.Machine.execIrqclr s
  | .flush => Sys2Proof.Machine.execFlush s
  | .xchg cmd framing => Sys2Proof.Machine.execXchg cmd framing s
  | .detect => Sys2Proof.Machine.execDetect s
  | .poll => Sys2Proof.Machine.execPoll s
  | .uidrd => Sys2Proof.Machine.execUidrd s
  | .cmdIdle => Sys2Proof.Machine.execCmdIdle s
  | .cmdTransceive => Sys2Proof.Machine.execCmdTransceive s
  | .cmdSoftreset => Sys2Proof.Machine.execCmdSoftreset s
  | .wup => Sys2Proof.Machine.execWup s
  | .sel => Sys2Proof.Machine.execSel s

end Sys2Proof.Machine
end

