-- ==== Sys2Proof/Machine/Fetch.lean ====
section
/-! DEFINITION. Taking the host's next move (spec/10_state.md R28): what the command port shows, decoding it, and running
what it decodes to. -/

namespace Sys2Proof.Machine

/-- Run what a request decodes to, or refuse it by name (R92). -/
def runDecoded (d : Decoded) (s : State) : Host.Outcome State Fault Refusal :=
  match d with
  | .instr i => exec i s
  | .rejected e => .refused (.illegalRequest e)

/-- The block idle, the host making a move; with no move left the command port shows `00`, NOP (R85). -/
def idleStep (s : State) : Host.Outcome State Fault Refusal :=
  match s.host with
  | [] => runDecoded (decode (.host 0)) s
  | .call r :: rest => runDecoded (decode r) { s with host := rest }
  | .start op :: rest => enterOperation s.params op { s with host := rest }
  | .writeUid i v :: rest => .next (writeUid i v { s with host := rest })

/-- Place a request as the host's next move, the block idle so that the next step takes it. -/
def placeRequest (r : Request) (s : State) : State :=
  { s with site := .idle, host := .call r :: s.host }

end Sys2Proof.Machine
end

