-- ==== Sys2Proof/Machine/Step.lean ====
section
/-! DEFINITION. One step: while SITE is `IDLE` the block takes the host's next move (spec/10_state.md R28), else the
running operation advances by one site (R23). -/

namespace Sys2Proof.Machine

/-- One step of the machine. -/
def step (s : State) : Host.Outcome State Fault Refusal :=
  if s.site = .idle then idleStep s else advance s.params s

/-- `s` with an opcode-table word standing where step fetches its next instruction: the block idle and the word the
host's next move, run as one call (notes/assumptions/5.md, 10.md). -/
def State.withFetchWord (s : State) (nbits w : Nat) : State :=
  placeRequest (tableRequest nbits w) s

end Sys2Proof.Machine
end

