-- ==== Sys2Proof/Machine/Parametric.lean ====
section
/-! DEFINITION. The machine as a function of its parameters (spec/10_state.md R41: parameters are "arguments of the model
and not fields of its machine state"): exec and step with the parameters as an argument and a run without them before and
after, and for every parameter set a machine whose state is such a run. -/

namespace Sys2Proof.Machine

/-- An outcome with its next state read in another form. -/
def mapNext {σ τ φ ρ : Type} (f : σ → τ) : Host.Outcome σ φ ρ → Host.Outcome τ φ ρ
  | .next s => .next (f s)
  | .fault e => .fault e
  | .refused e => .refused e

/-- One instruction, the parameters an argument (R41). -/
def execWith (p : Params) (i : Instr) (r : Run) : Host.Outcome Run Fault Refusal :=
  mapNext (fun s => s.toRun) (exec i (r.under p))

/-- One step, the parameters an argument (R41). -/
def stepWith (p : Params) (r : Run) : Host.Outcome Run Fault Refusal :=
  mapNext (fun s => s.toRun) (step (r.under p))

/-- The machine of a parameter set: no parameter is in its state (R41), and its reset is the same for all of them (R42). -/
def coreWith (p : Params) : Host.Core :=
  { State := Run, Fault := Fault, Refusal := Refusal, step := stepWith p, reset := Run.reset }

end Sys2Proof.Machine
end

