-- ==== Sys2Proof/Machine/Trace.lean ====
section
/-! DEFINITION. The decoder of bus traces (spec/30_encoding.md R96): which sites make an event of this shape, and, by its
position in the operation's sequence, which one did. -/

namespace Sys2Proof.Machine

/-- The sites that make a transport call (R23), without phase and index. -/
inductive SiteName where
  | i1
  | i2
  | i3
  | i4
  | i5
  | i6
  | s1
  | x1
  | x2
  | x3
  | x4
  | x5
  | x6
  | x7
  | p1
  | u1
  | u2
deriving DecidableEq, Repr

/-- The name of a site; none at IDLE, U3 and END, which make no transport call. -/
def siteName : Site → Option SiteName
  | .idle | .u3 | .opEnd _ _ => none
  | .i1 => some .i1
  | .i2 => some .i2
  | .i3 _ => some .i3
  | .i4 => some .i4
  | .i5 => some .i5
  | .i6 => some .i6
  | .s1 => some .s1
  | .x1 _ => some .x1
  | .x2 _ => some .x2
  | .x3 _ => some .x3
  | .x4 _ => some .x4
  | .x5 _ _ => some .x5
  | .x6 _ => some .x6
  | .x7 _ => some .x7
  | .p1 _ => some .p1
  | .u1 => some .u1
  | .u2 => some .u2

/-- The sites whose write event has this register and data byte, in R96's order. -/
def writeSites (p : Params) (c : Code) (d : Byte) : List SiteName :=
  (if c = p.regCommand ∧ d = p.cmdSoftreset then [.i2, .s1] else []) ++
  (if c = p.regCommand ∧ d = p.cmdIdle then [.x1] else []) ++
  (if c = p.regCommand ∧ d = p.cmdTransceive then [.x6] else []) ++
  (if (c, d) ∈ p.timerProgram then [.i3] else []) ++
  (if c = p.regTxAsk ∧ d = p.askValue then [.i4] else []) ++
  (if c = p.regTxControl then [.i6] else []) ++
  (if c = p.regComIrq then [.x3] else []) ++
  (if c = p.regFifoLevel ∧ d = p.fifoFlush then [.x4] else []) ++
  (if c = p.regFifoData then [.x5] else []) ++
  (if c = p.regBitFraming ∧ (d = p.bfShort7 ∨ d = p.bfFull8) then [.x7] else [])

/-- The sites whose read event has this register (R96). -/
def readSites (p : Params) (c : Code) : List SiteName :=
  (if c = p.regTxControl then [.i5] else []) ++
  (if c = p.regComIrq then [.x2, .p1] else []) ++
  (if c = p.regFifoLevel then [.u1] else []) ++
  (if c = p.regFifoData then [.u2] else [])

/-- The sites that share the shape of an event (R96): `TI(ok)` is I1; otherwise bit 0 of the address is 0, the direction
bit matches the call, and the code names the register. Empty for an event the block never makes (R92 (a), (b)). -/
def eventSites (p : Params) : BusEvent → List SiteName
  | .ti _ => [.i1]
  | .w a d => if addressShape false a then writeSites p (wireCode a) d else []
  | .r a _ => if addressShape true a then readSites p (wireCode a) else []

/-- Is an event one of the shapes the block makes (R96)? -/
def eventShape (p : Params) (e : BusEvent) : Bool :=
  !(eventSites p e).isEmpty

/-- The state in which the environment answers the next call as the event says. -/
def answering (e : BusEvent) (s : State) : State :=
  match e with
  | .ti ok => { s with envInits := [ok] }
  | .w _ _ => s
  | .r a d => { s with envReads := [(a, d)] }

/-- The sites that make a list of events one after another from a state, "told apart by position in the operation's
sequence" (R96); none when an event is not the one its site makes. -/
def traceSites (p : Params) : List BusEvent → State → Option (List Site)
  | [], _ => some []
  | e :: rest, s =>
    if siteEvent p (answering e s) = some e then
      (traceSites p rest (siteStep p (answering e s))).map (fun sites => s.site :: sites)
    else none

/-- The first site of a host operation (R23); NOP has none. -/
def firstSite : Instr → Option Site
  | .init => some .i1
  | .reset => some .s1
  | .rduid => some (.x1 .det)
  | _ => none

/-- The site of every event of the trace of one host operation (R96). The block's state before it does not matter, since
every working register is written before it is read (R42). -/
def decodeTrace (p : Params) (op : BitVec 2) (evs : List BusEvent) : Option (List Site) :=
  match firstSite (decodeHost op) with
  | some x => traceSites p evs { State.resetWith p with site := x }
  | none => if evs = [] then some [] else none

end Sys2Proof.Machine
end

