-- ==== Sys2Proof/Safety.lean ====
section
/-! DEFINITION. The terms claims use: the frames (what an instruction leaves unchanged), the event sequences of an
exchange and of a polling wait, the outcomes of UID retrieval, and the invariant every step keeps. -/

namespace Sys2Proof.Machine

/-! Frames. Each says: `t` is `s` but for the named fields; the value returned, the ghost label and the trace may change,
and, where the environment was asked something, the part of its script that answered and the draw counter; every other
field is the same. -/

/-- Writes to the chip only: nothing of the block changed, and the environment was asked nothing. -/
def WriteFrame (s t : State) : Prop :=
  t = { s with ret := t.ret, failKind := t.failKind, traceRev := t.traceRev }

/-- `T.init` only: nothing of the block changed (R52). -/
def SetupFrame (s t : State) : Prop :=
  t = { s with
    ret := t.ret, failKind := t.failKind, traceRev := t.traceRev
    envInits := t.envInits, draws := t.draws }

/-- Register reads and writes: nothing of the block changed (R110, R111). -/
def BusFrame (s t : State) : Prop :=
  t = { s with
    ret := t.ret, failKind := t.failKind, traceRev := t.traceRev
    envReads := t.envReads, draws := t.draws }

/-- Register accesses and TMP (ANTON, IRQCLR, XCHG: R123, R141, R143). -/
def TmpFrame (s t : State) : Prop :=
  t = { s with
    tmp := t.tmp
    ret := t.ret, failKind := t.failKind, traceRev := t.traceRev
    envReads := t.envReads, draws := t.draws }

/-- Register accesses, S and BUDGET (POLL: R161). -/
def PollFrame (s t : State) : Prop :=
  t = { s with
    sReg := t.sReg, budget := t.budget
    ret := t.ret, failKind := t.failKind, traceRev := t.traceRev
    envReads := t.envReads, draws := t.draws }

/-- Register accesses, TMP, S and BUDGET (DETECT: R144). -/
def DetectFrame (s t : State) : Prop :=
  t = { s with
    tmp := t.tmp, sReg := t.sReg, budget := t.budget
    ret := t.ret, failKind := t.failKind, traceRev := t.traceRev
    envReads := t.envReads, draws := t.draws }

/-- Register accesses, the working registers of both phases, STG and UID (UIDRD, RDUID: R175, R176). -/
def UidFrame (s t : State) : Prop :=
  t = { s with
    tmp := t.tmp, sReg := t.sReg, budget := t.budget, lvl := t.lvl, n := t.n, idx := t.idx
    stg := t.stg, uid := t.uid
    ret := t.ret, failKind := t.failKind, traceRev := t.traceRev
    envReads := t.envReads, draws := t.draws }

/-- Bus traffic of every kind, DS and TMP (INIT: R120). -/
def InitFrame (s t : State) : Prop :=
  t = { s with
    ds := t.ds, tmp := t.tmp
    ret := t.ret, failKind := t.failKind, traceRev := t.traceRev
    envInits := t.envInits, envReads := t.envReads, draws := t.draws }

/-- Two states that differ at most in the working registers and STG, which are dead between operations (R43). -/
def SameBetween (s t : State) : Prop :=
  t = { s with
    tmp := t.tmp, sReg := t.sReg, budget := t.budget, lvl := t.lvl, n := t.n, idx := t.idx, stg := t.stg }

/-! Event sequences. -/

/-- The events of one XCHG whose flag read delivered `d` (R143). -/
def xchgEvents (p : Params) (cmd : List Byte) (framing d : Byte) : List BusEvent :=
  [.w (writeAddr p.regCommand) p.cmdIdle, .r (readAddr p.regComIrq) d,
    .w (writeAddr p.regComIrq) (d &&& ~~~p.irqSet), .w (writeAddr p.regFifoLevel) p.fifoFlush] ++
  cmd.map (fun b => .w (writeAddr p.regFifoData) b) ++
  [.w (writeAddr p.regCommand) p.cmdTransceive, .w (writeAddr p.regBitFraming) framing]

/-- The events of a polling wait that read the status bytes `vs`, in order (R161). -/
def pollEvents (p : Params) (vs : List Byte) : List BusEvent :=
  vs.map (fun v => .r (readAddr p.regComIrq) v)

/-- `vs` are the status bytes of one complete polling wait with result `found` (R161, R162): every byte but the last has
neither flag; the last has IRQ_RX, or IRQ_TIMER and not IRQ_RX, or is read number POLL_BUDGET with neither. -/
def Waited (p : Params) (vs : List Byte) (found : Bool) : Prop :=
  ∃ pre last, vs = pre ++ [last] ∧
    (∀ v ∈ pre, v &&& p.irqRx = 0 ∧ v &&& p.irqTimer = 0) ∧
    vs.length ≤ pollBudget ∧
    ((last &&& p.irqRx ≠ 0 ∧ found = true) ∨
     (last &&& p.irqRx = 0 ∧ last &&& p.irqTimer ≠ 0 ∧ found = false) ∨
     (last &&& p.irqRx = 0 ∧ last &&& p.irqTimer = 0 ∧ vs.length = pollBudget ∧ found = false))

/-- The registers a polling wait that read `vs` leaves (R161): S is the last byte read, and BUDGET went down by one at each
byte with neither flag. -/
def WaitRegs (p : Params) (vs : List Byte) (t : State) : Prop :=
  vs.getLast? = some t.sReg ∧
    t.budget.toNat = pollBudget - (vs.filter (fun v => v &&& p.irqRx == 0 && v &&& p.irqTimer == 0)).length

/-- The UID parse did not begin: N, IDX, STG and UID are as they were. -/
def ParseKept (s t : State) : Prop :=
  t.n = s.n ∧ t.idx = s.idx ∧ t.stg = s.stg ∧ t.uid = s.uid

/-- The outcomes of UID retrieval (R175, R179) from `s` to `t`, the trace before it being `before`: the select exchange and
its wait, which leave TMP, S and BUDGET, then one of three exits. On the failing ones the parse did not begin and UID is as
it was; LVL is the level only where it was read (R173). On success N = min(LVL, 4), UID[i] is the byte the i-th read of
REG_FIFO_DATA delivered, for every i below N, and UID is STG (R174); nothing is said of the other bytes (R177). -/
def Retrieved (p : Params) (before : List BusEvent) (s t : State) : Prop :=
  ∃ d vs found, Waited p vs found ∧ t.tmp = d ∧ WaitRegs p vs t ∧
    ((found = false ∧ t.ret = .bool false ∧ t.failKind = some .responseTimeout ∧ ParseKept s t ∧ t.lvl = s.lvl ∧
      t.busTrace = before ++ xchgEvents p [p.selCl1, p.selNvb] p.bfFull8 d ++ pollEvents p vs) ∨
     (found = true ∧ t.ret = .bool false ∧ t.failKind = some .emptyResponse ∧ ParseKept s t ∧ t.lvl = 0 ∧
      t.busTrace = before ++ xchgEvents p [p.selCl1, p.selNvb] p.bfFull8 d ++ pollEvents p vs ++
        [.r (readAddr p.regFifoLevel) 0]) ∨
     (found = true ∧ t.ret = .bool true ∧ t.failKind = none ∧
      ∃ (level : Byte) (bytes : List Byte), level ≠ 0 ∧ bytes.length = min level.toNat 4 ∧
        t.lvl = level ∧ t.n.toNat = min level.toNat 4 ∧ t.stg = t.uid ∧
        t.busTrace = before ++ xchgEvents p [p.selCl1, p.selNvb] p.bfFull8 d ++ pollEvents p vs ++
          .r (readAddr p.regFifoLevel) level :: bytes.map (fun b => .r (readAddr p.regFifoData) b) ∧
        ∀ i : Fin 4, i.val < bytes.length → bytes[i.val]? = some (bankGet t.uid i)))

/-! The invariant. -/

/-- The sites of a running INIT whose transport is up, where DS is `TransportReady` (R21, R120). -/
def configuring : Site → Bool
  | .i2 | .i3 _ | .i4 | .i5 | .i6 => true
  | .idle | .i1 | .s1 | .x1 _ | .x2 _ | .x3 _ | .x4 _ | .x5 _ _ | .x6 _ | .x7 _ | .p1 _ | .u1 | .u2 | .u3
  | .opEnd _ _ => false

/-- An event's address byte has the block's shape: bit 0 clear, bit 7 the direction (R81, R92 (a)). -/
def wireShape : BusEvent → Bool
  | .ti _ => true
  | .w a _ => addressShape false a
  | .r a _ => addressShape true a

/-- What every step keeps: the parameters are ones the spec admits (R6, R58, R91); SITE is a site of R23's table; DS is
`TransportReady` exactly inside a running INIT, so never at a boundary between operations (R21); every address byte on the
bus has the shape of R81. -/
abbrev State.Inv (s : State) : Prop :=
  s.params.wf = true ∧ siteLegal s.params s = true ∧
    (s.ds = .transportReady ↔ configuring s.site = true) ∧ s.traceRev.all wireShape = true

end Sys2Proof.Machine
end

