-- ==== Sys2Proof/Certificates/Slice0/Obligations.lean ====
section
/-! DEFINITION. The statements for the provers. Each docstring names the rule of spec/ it formalises; statements whose
basis is 'derived' say so, and where one rests on a choice of the model it names the log entry. -/

open Sys2Proof Sys2Proof.Machine

/-! ## Encodings -/

/-- Derived (30_encoding.md R81, whose bit 0 and arithmetic form the spec derives from the source's invariant): the wire
byte of every code in both directions: bit 7 is the direction, bit 0 is 0, bits 6 to 1 are the code; as arithmetic,
2 * code for a write and 128 + 2 * code for a read. -/
def Obligations.WireByteBits : Prop :=
  ∀ (read : Bool) (code : Code),
    (wireByte read code).getLsbD 7 = read ∧ (wireByte read code).getLsbD 0 = false ∧
    wireCode (wireByte read code) = code ∧
    (wireByte read code).toNat = (if read then 128 else 0) + 2 * code.toNat

/-- Derived (30_encoding.md 2, 3): decoding the encoding of a well-formed instruction gives it back, every operand
included. -/
def Obligations.DecodeEncodeRoundTrip : Prop :=
  ∀ (i : Instr) (r : Request), i.wf = true → encode i = some r → decode r = .instr i

/-- Derived (30_encoding.md 2, 3): what the host port and a wire frame decode to is encoded as exactly that code or frame,
so each has one meaning. What a transport request decodes to is encoded as a request of the same kind and size, with the
same address for TWRITE and TREAD and the same data for TWRITE; the signals a kind does not use are the model's choice
(log 20). And whatever decodes is well-formed. -/
def Obligations.AcceptedRequestsReencode : Prop :=
  (∀ op i, decode (.host op) = .instr i → encode i = some (.host op)) ∧
  (∀ bytes i, decode (.frame bytes) = .instr i → encode i = some (.frame bytes)) ∧
  (∀ kind address wdata size i, decode (.transport kind address wdata size) = .instr i →
    ∃ address' wdata', encode i = some (.transport kind address' wdata' 1) ∧
      (kind ≠ 0 → size = 1) ∧ (kind = 2 ∨ kind = 3 → address' = address) ∧ (kind = 2 → wdata' = wdata)) ∧
  (∀ r i, decode r = .instr i → i.wf = true)

/-- Derived (30_encoding.md 5): the encodings of R92 (a) and (c), R93, R84 and R96 that the block never produces are
rejected, each by its own name. -/
def Obligations.NeverProducedRequestsRejected : Prop :=
  (∀ bytes : List Byte, bytes.length ≠ 2 → decode (.frame bytes) = .rejected .frameLength) ∧
  (∀ a d : Byte, a.getLsbD 0 = true → decode (.frame [a, d]) = .rejected .addressBitZeroSet) ∧
  (∀ a d : Byte, a.getLsbD 0 = false → a.getLsbD 7 = true → d ≠ 0 →
    decode (.frame [a, d]) = .rejected .fillerNotZero) ∧
  (∀ (kind : BitVec 2) (a d : Byte) (size : Nat), kind = 1 ∨ kind = 2 ∨ kind = 3 → size ≠ 1 →
    decode (.transport kind a d size) = .rejected .sizeNotOne) ∧
  (∀ (kind : BitVec 2) (a d : Byte), kind = 2 ∨ kind = 3 → a.getLsbD 0 = true →
    decode (.transport kind a d 1) = .rejected .addressBitZeroSet) ∧
  (∀ a d : Byte, a.getLsbD 0 = false → a.getLsbD 7 = true →
    decode (.transport 2 a d 1) = .rejected .directionMismatch) ∧
  (∀ a d : Byte, a.getLsbD 0 = false → a.getLsbD 7 = false →
    decode (.transport 3 a d 1) = .rejected .directionMismatch)

/-- Derived (30_encoding.md 2, 3, 20_memory.md 1): words written out from the spec's encodings decode to the instructions
they stand for. The frames are those of 95_test_vectors.md V1 and V3. -/
def Obligations.SampleWordsDecode : Prop :=
  decode (.host 0#2) = .instr .nop ∧ decode (.host 1#2) = .instr .init ∧
  decode (.host 2#2) = .instr .reset ∧ decode (.host 3#2) = .instr .rduid ∧
  decode (.frame [0x02#8, 0x0F#8]) = .instr (.wrreg 0x01#6 0x0F#8) ∧
  decode (.frame [0x7E#8, 0x00#8]) = .instr (.wrreg 0x3F#6 0x00#8) ∧
  decode (.frame [0x88#8, 0x00#8]) = .instr (.rdreg 0x04#6) ∧
  decode (.frame [0xD4#8, 0x00#8]) = .instr (.rdreg 0x2A#6) ∧
  decode (.transport 0#2 0#8 0#8 1) = .instr .noRequest ∧ decode (.transport 1#2 0#8 0#8 1) = .instr .tinit ∧
  decode (.transport 2#2 0x12#8 0x52#8 1) = .instr (.twrite 0x12#8 0x52#8) ∧
  decode (.transport 3#2 0x92#8 0#8 1) = .instr (.tread 0x92#8)

/-- Derived (10_state.md R21, R27): the encodings of DS and of the return values; the DS value `11` is none. -/
def Obligations.StateEncodings : Prop :=
  (∀ d : DS, decodeDS (encodeDS d) = some d) ∧ decodeDS 3#2 = none ∧
  encodeDS .uninitialized = 0#2 ∧ encodeDS .transportReady = 1#2 ∧ encodeDS .configured = 2#2 ∧
  retBit (.status .ok) = some 0#1 ∧ retBit (.status .error) = some 1#1 ∧
  retBit (.bool false) = some 0#1 ∧ retBit (.bool true) = some 1#1

/-! ## The step -/

/-- Derived (10_state.md 2, R28): while the block is idle a request that decodes is run as its instruction, the host's
list of moves (the model's own, log 5) being one shorter. -/
def Obligations.StepRunsDecodedInstruction : Prop :=
  ∀ (s : State) (r : Request) (rest : List HostMove) (i : Instr),
    s.site = .idle → s.host = .call r :: rest → decode r = .instr i →
    step s = exec i { s with host := rest }

/-- Derived, and the model's choice: while the block is idle a request the decoder rejects is refused with the decoder's
reason. A host code always decodes, so the request is a wire frame or a transport request given as a move of the host's
list, which is the model's own (log 14, log 5); 30_encoding.md R92 says only that the block never produces it. -/
def Obligations.StepRefusesRejectedRequest : Prop :=
  ∀ (s : State) (r : Request) (rest : List HostMove) (e : DecodeError),
    s.site = .idle → s.host = .call r :: rest → decode r = .rejected e →
    step s = .refused (.illegalRequest e)

/-- Derived (30_encoding.md R85, 70_reset_and_hazards.md R221): with no move of the host left (log 5) the block stays
idle and nothing changes. -/
def Obligations.IdleBlockDoesNothing : Prop :=
  ∀ s : State, s.site = .idle → s.host = [] → step s = .next s

/-- Derived (10_state.md R23, R22, R28): a host operation code taken site by site (the list of moves: log 5) enters its
operation's first site, RESET and RDUID when DS is `Configured` or the policy is `ungated`; code 00 stays idle; and RESET
and RDUID are refused while DS is `Uninitialized` under policy `refuse`. -/
def Obligations.StartEntersFirstSite : Prop :=
  ∀ (s : State) (rest : List HostMove) (op : BitVec 2), s.site = .idle → s.host = .start op :: rest →
    (op = 0 → step s = .next { s with host := rest }) ∧
    (op = 1 → step s = .next { s with host := rest, site := .i1 }) ∧
    (op = 2 → (s.ds = .configured ∨ s.params.policy = .ungated) →
      step s = .next { s with host := rest, site := .s1 }) ∧
    (op = 3 → (s.ds = .configured ∨ s.params.policy = .ungated) →
      step s = .next { s with host := rest, site := .x1 .det }) ∧
    (op = 2 ∨ op = 3 → s.ds = .uninitialized → s.params.policy = .refuse → step s = .refused .unconfigured)

/-- Derived (10_state.md R23): while an operation runs, a step is one site; a SITE that is none of R23's has no meaning
(log 11). -/
def Obligations.BusyStepIsOneSite : Prop :=
  ∀ s : State, s.site ≠ .idle →
    (siteLegal s.params s = true → step s = .next (siteStep s.params s)) ∧
    (siteLegal s.params s = false → step s = .refused .illegalSite)

/-- Derived (10_state.md R26): between operations the host writes a byte of its UID bank; the other three bytes and every
other field but the list of moves are unchanged. -/
def Obligations.HostWritesUidBank : Prop :=
  ∀ (s : State) (rest : List HostMove) (i : Fin 4) (v : Byte),
    s.site = .idle → s.host = .writeUid i v :: rest →
    ∃ t, step s = .next t ∧ t = { s with host := rest, uid := t.uid } ∧ bankGet t.uid i = v ∧
      ∀ j : Fin 4, j ≠ i → bankGet t.uid j = bankGet s.uid j

/-! ## Transport calls and register access -/

/-- Derived (30_encoding.md R85, whose codes are the spec's decision D1, and 95_test_vectors.md V13): the four host codes;
NOP, code 00, changes nothing at all, in any state: no transport call, no state change, no return value. That this holds
while the block is busy too is log 17, and that the value last returned stays is log 6. -/
def Obligations.HostCodesAndNop : Prop :=
  decode (.host 0#2) = .instr .nop ∧ decode (.host 1#2) = .instr .init ∧
  decode (.host 2#2) = .instr .reset ∧ decode (.host 3#2) = .instr .rduid ∧
  ∀ s : State, exec .nop s = .next s

/-- R110: WRREG completes in every state, makes exactly one event, a write whose address byte is 2 * code and whose data
byte is the value unchanged, returns nothing and writes no state of the block. The bytes driven on the wire are the frame
of R83. -/
def Obligations.WrregMakesOneWrite : Prop :=
  ∀ (code : Code) (v : Byte) (s : State), ∃ t, exec (.wrreg code v) s = .next t ∧ WriteFrame s t ∧
    t.busTrace = s.busTrace ++ [.w (BitVec.ofNat 8 (2 * code.toNat)) v] ∧ t.ret = .nothing ∧
    encode (.wrreg code v) = some (.frame (BusEvent.driven (.w (BitVec.ofNat 8 (2 * code.toNat)) v)))

/-- R111: RDREG completes in every state, makes exactly one event, a read whose address byte is 128 + 2 * code, returns the
byte `d` that the event delivered, and writes no state of the block. The bytes driven are `[1cccccc0, 0x00]`, whatever byte
is delivered. -/
def Obligations.RdregMakesOneRead : Prop :=
  ∀ (code : Code) (s : State), ∃ t d, exec (.rdreg code) s = .next t ∧ BusFrame s t ∧
    t.busTrace = s.busTrace ++ [.r (BitVec.ofNat 8 (128 + 2 * code.toNat)) d] ∧ t.ret = .byte d ∧
    encode (.rdreg code) = some (.frame (BusEvent.driven (.r (BitVec.ofNat 8 (128 + 2 * code.toNat)) d)))

/-- Derived (20_memory.md R60, 95_test_vectors.md "Conventions"): where a script holds answers for the address read (the
model's own field, log 3), RDREG returns the next of them and uses up only that one. -/
def Obligations.ScriptedReadsAnswerInOrder : Prop :=
  ∀ (code : Code) (s : State) (e : Byte), scriptFind (BitVec.ofNat 8 (128 + 2 * code.toNat)) s.envReads = some e →
    ∃ t, exec (.rdreg code) s = .next t ∧ t.ret = .byte e ∧
      t.envReads = scriptDrop (BitVec.ofNat 8 (128 + 2 * code.toNat)) s.envReads

/-- Derived (20_memory.md 1, R51 to R54): request kind 00 changes nothing; each transport call completes in every state
with exactly one event; TINIT returns the draw, TWRITE no status, TREAD the byte delivered, the script's where it has one
(log 3); nothing of the block changes. -/
def Obligations.TransportCallsMakeOneEvent : Prop :=
  (∀ s : State, exec .noRequest s = .next s) ∧
  (∀ s : State, ∃ t ok, exec .tinit s = .next t ∧ SetupFrame s t ∧ t.busTrace = s.busTrace ++ [.ti ok] ∧
    t.ret = .bool ok ∧ ∀ b rest, s.envInits = b :: rest → ok = b ∧ t.envInits = rest) ∧
  (∀ (a d : Byte) (s : State), ∃ t, exec (.twrite a d) s = .next t ∧ WriteFrame s t ∧
    t.busTrace = s.busTrace ++ [.w a d] ∧ t.ret = .nothing) ∧
  (∀ (a : Byte) (s : State), ∃ t d, exec (.tread a) s = .next t ∧ BusFrame s t ∧
    t.busTrace = s.busTrace ++ [.r a d] ∧ t.ret = .byte d ∧ ∀ e, scriptFind a s.envReads = some e → d = e)

/-- Derived (41_init_reset.md R122, 42_exchange_detect.md R142): ASKCFG is one write of ASK_VALUE to the modulation
register, FLUSH one write of FIFO_FLUSH to the FIFO-level register; no read, nothing of the block changes, no failure. That
each is one plain write is the spec's own decision, D8 and D9 (log 15). -/
def Obligations.AskcfgAndFlushAreOneWrite : Prop :=
  ∀ s : State,
    (∃ t, exec .askcfg s = .next t ∧ WriteFrame s t ∧ t.ret = .nothing ∧
      t.busTrace = s.busTrace ++ [.w (writeAddr s.params.regTxAsk) s.params.askValue]) ∧
    (∃ t, exec .flush s = .next t ∧ WriteFrame s t ∧ t.ret = .nothing ∧
      t.busTrace = s.busTrace ++ [.w (writeAddr s.params.regFifoLevel) s.params.fifoFlush])

/-- Derived (30_encoding.md R88): the three chip commands are each one write of the whole data byte to the command
register; nothing of the block changes. That a chip command row IS that write is the model's reading (log 7). -/
def Obligations.ChipCommandsWriteCommandRegister : Prop :=
  ∀ s : State,
    (∃ t, exec .cmdIdle s = .next t ∧ WriteFrame s t ∧ t.ret = .nothing ∧
      t.busTrace = s.busTrace ++ [.w (writeAddr s.params.regCommand) s.params.cmdIdle]) ∧
    (∃ t, exec .cmdTransceive s = .next t ∧ WriteFrame s t ∧ t.ret = .nothing ∧
      t.busTrace = s.busTrace ++ [.w (writeAddr s.params.regCommand) s.params.cmdTransceive]) ∧
    (∃ t, exec .cmdSoftreset s = .next t ∧ WriteFrame s t ∧ t.ret = .nothing ∧
      t.busTrace = s.busTrace ++ [.w (writeAddr s.params.regCommand) s.params.cmdSoftreset])

/-- Derived (30_encoding.md R89, R61): WUP is one write to the FIFO, SEL two, SEL_CL1 first; nothing of the block changes.
That a card command row IS its FIFO writes is the model's reading (log 7). -/
def Obligations.CardCommandsLoadFifo : Prop :=
  ∀ s : State,
    (∃ t, exec .wup s = .next t ∧ WriteFrame s t ∧ t.ret = .nothing ∧
      t.busTrace = s.busTrace ++ [.w (writeAddr s.params.regFifoData) s.params.wupByte]) ∧
    (∃ t, exec .sel s = .next t ∧ WriteFrame s t ∧ t.ret = .nothing ∧
      t.busTrace = s.busTrace ++
        [.w (writeAddr s.params.regFifoData) s.params.selCl1, .w (writeAddr s.params.regFifoData) s.params.selNvb])

/-! ## Initialisation and reset -/

/-- Derived (41_init_reset.md R121): TMRCFG writes the entries of TIMER_PROGRAM in list order, one write each (none for an
empty list), and nothing else. That all are plain writes with no read, of a list of any length, is the spec's own decision
D7 (log 15). -/
def Obligations.TmrcfgWritesProgramInOrder : Prop :=
  ∀ s : State, ∃ t, exec .tmrcfg s = .next t ∧ WriteFrame s t ∧ t.ret = .nothing ∧
    t.busTrace = s.busTrace ++ s.params.timerProgram.map (fun e => .w (writeAddr e.1) e.2)

/-- R123: ANTON reads the antenna-control register exactly once; it writes it back, with both driver bits set and every
other bit as read, only if at least one of them read clear. State written: TMP, the byte read. -/
def Obligations.AntonReadsOnceWritesIfClear : Prop :=
  ∀ s : State, ∃ t d, exec .anton s = .next t ∧ TmpFrame s t ∧ t.tmp = d ∧ t.ret = .nothing ∧
    (d &&& s.params.txEn = s.params.txEn →
      t.busTrace = s.busTrace ++ [.r (readAddr s.params.regTxControl) d]) ∧
    (d &&& s.params.txEn ≠ s.params.txEn →
      t.busTrace = s.busTrace ++
        [.r (readAddr s.params.regTxControl) d, .w (writeAddr s.params.regTxControl) (d ||| s.params.txEn)])

/-- Derived (41_init_reset.md R120): INIT, issued while the block is idle, completes in every value of DS. If the transport
comes up it returns OK with DS `Configured`, whatever the chip answers, after the transactions of steps 2 to 5 in order:
soft reset, timer program, modulation, antenna read (the only register read) and, only if a driver bit read clear, antenna
write; nothing else but TMP changes in the block. If it does not come up (TransportSetupError) INIT returns ERROR after
that one call: no register access, DS and every other field of the block unchanged. That DS stays `Configured` where it
was so, and the form of the timer and modulation writes, are the spec's own decisions D14, D7 and D8 (log 15). -/
def Obligations.InitOutcome : Prop :=
  ∀ s : State, s.site = .idle →
    (initAnswer s = true →
      ∃ t d, exec .init s = .next t ∧ InitFrame s t ∧ t.ds = .configured ∧ t.tmp = d ∧ t.ret = .status .ok ∧
        t.failKind = none ∧
        t.busTrace = s.busTrace ++ [.ti true, .w (writeAddr s.params.regCommand) s.params.cmdSoftreset] ++
          s.params.timerProgram.map (fun e => .w (writeAddr e.1) e.2) ++
          [.w (writeAddr s.params.regTxAsk) s.params.askValue, .r (readAddr s.params.regTxControl) d] ++
          (if d &&& s.params.txEn = s.params.txEn then []
            else [.w (writeAddr s.params.regTxControl) (d ||| s.params.txEn)])) ∧
    (initAnswer s = false →
      ∃ t, exec .init s = .next t ∧ SetupFrame s t ∧ t.ret = .status .error ∧
        t.failKind = some .transportSetupError ∧ t.busTrace = s.busTrace ++ [.ti false])

/-- Derived (41_init_reset.md R124): RESET, issued while DS is `Configured`, is one soft-reset write and nothing else; it
returns nothing, and DS, UID and all else of the block stay. Issued while DS is `Uninitialized` it is refused by default,
which is the spec's own decision D13 (log 13). -/
def Obligations.ResetIsOneSoftResetWrite : Prop :=
  ∀ s : State, s.site = .idle →
    (s.ds = .configured →
      ∃ t, exec .reset s = .next t ∧ WriteFrame s t ∧ t.ret = .nothing ∧
        t.busTrace = s.busTrace ++ [.w (writeAddr s.params.regCommand) s.params.cmdSoftreset]) ∧
    (s.ds = .uninitialized → s.params.policy = .refuse → exec .reset s = .refused .unconfigured)

/-- Derived (10_state.md R22): INIT answers a next state in every value of DS; RESET and RDUID answer one when DS is
`Configured` (which one: ResetIsOneSoftResetWrite, RduidFillOrFail); while it is `Uninitialized` they are refused under
policy `refuse`, and under `ungated` they do whatever DS holds what they do when it is `Configured`. The refusal and the
parameter are the spec's own decision D13 (log 13). -/
def Obligations.OperationsWithAMeaning : Prop :=
  ∀ s : State, s.site = .idle →
    (∃ t, exec .init s = .next t) ∧
    (s.ds = .configured → (∃ t, exec .reset s = .next t) ∧ ∃ t, exec .rduid s = .next t) ∧
    (s.ds = .uninitialized → s.params.policy = .refuse →
      exec .reset s = .refused .unconfigured ∧ exec .rduid s = .refused .unconfigured) ∧
    (s.params.policy = .ungated → ∀ i : Instr, i = .reset ∨ i = .rduid →
      ∃ t, exec i { s with ds := .configured } = .next t ∧ exec i s = .next { t with ds := s.ds })

/-- Derived (10_state.md R28, 92_eei_decisions.md D21): a host operation issued while SITE is not `IDLE` has no meaning. -/
def Obligations.BusyOperationsRefused : Prop :=
  ∀ s : State, s.site ≠ .idle →
    exec .init s = .refused .busy ∧ exec .reset s = .refused .busy ∧ exec .rduid s = .refused .busy

/-- Derived (41_init_reset.md R125): the table of DS at operation boundaries. That a failing INIT leaves DS `Configured` where
it was so is the spec's own decision D14 (log 15), and the refusal while `Uninitialized` is D13 (log 13). -/
def Obligations.LifecycleTable : Prop :=
  ∀ s : State, s.site = .idle →
    (∃ t, exec .init s = .next t ∧ t.ds = (if initAnswer s then .configured else s.ds)) ∧
    (s.ds = .configured → ∃ t, exec .reset s = .next t ∧ t.ds = .configured) ∧
    (s.ds = .configured → ∃ t, exec .rduid s = .next t ∧ t.ds = .configured) ∧
    (s.ds = .uninitialized → s.params.policy = .refuse →
      exec .reset s = .refused .unconfigured ∧ exec .rduid s = .refused .unconfigured) ∧
    exec .nop s = .next s

/-! ## The exchange, the polling wait, the UID -/

/-- Derived (42_exchange_detect.md R141): IRQCLR reads the interrupt-status register and always writes it back, the IRQ_SET
bit 0 and every other bit as read. State written: TMP, the byte read. The byte written, and that it is always written, are
the spec's own decision D31 (log 15). -/
def Obligations.IrqclrReadsThenWritesCleared : Prop :=
  ∀ s : State, ∃ t d, exec .irqclr s = .next t ∧ TmpFrame s t ∧ t.tmp = d ∧ t.ret = .nothing ∧
    t.busTrace = s.busTrace ++
      [.r (readAddr s.params.regComIrq) d, .w (writeAddr s.params.regComIrq) (d &&& ~~~s.params.irqSet)]

/-- Derived (42_exchange_detect.md R143): XCHG makes its transactions in the fixed order: Idle, flag read, flag clear,
flush, the command bytes element 0 first, Transceive, framing. State written: TMP. The spec's commands have 1 or 2 bytes, and
that the others run as well is the model's choice (log 18); the flag clear and the flush have the form of the spec's own
decisions D31 and D9 (log 15). -/
def Obligations.XchgSequence : Prop :=
  ∀ (cmd : List Byte) (framing : Byte) (s : State), ∃ t d, exec (.xchg cmd framing) s = .next t ∧ TmpFrame s t ∧
    t.tmp = d ∧ t.ret = .nothing ∧
    t.busTrace = s.busTrace ++
      [.w (writeAddr s.params.regCommand) s.params.cmdIdle, .r (readAddr s.params.regComIrq) d,
        .w (writeAddr s.params.regComIrq) (d &&& ~~~s.params.irqSet),
        .w (writeAddr s.params.regFifoLevel) s.params.fifoFlush] ++
      cmd.map (fun b => .w (writeAddr s.params.regFifoData) b) ++
      [.w (writeAddr s.params.regCommand) s.params.cmdTransceive, .w (writeAddr s.params.regBitFraming) framing]

/-- Derived (43_polling.md R161, R162, R163): POLL completes in every state after 1 to POLL_BUDGET reads of the
interrupt-status register and writes nothing to the chip. Every byte but the last read has neither flag; the last decides,
response received before timer expired before the budget. S is the last byte; BUDGET went down by one at each byte with
neither flag. The exact count of reads and the reload of BUDGET are the spec's own decision D23, that the other flags are
ignored is D34 (log 15). -/
def Obligations.PollOutcome : Prop :=
  ∀ s : State, ∃ t pre last, exec .poll s = .next t ∧ PollFrame s t ∧
    t.busTrace = s.busTrace ++ (pre ++ [last]).map (fun v => .r (readAddr s.params.regComIrq) v) ∧
    (∀ v ∈ pre, v &&& s.params.irqRx = 0 ∧ v &&& s.params.irqTimer = 0) ∧
    pre.length + 1 ≤ pollBudget ∧ t.sReg = last ∧
    ((last &&& s.params.irqRx ≠ 0 ∧ t.ret = .bool true ∧ t.failKind = none ∧
        t.budget.toNat = pollBudget - pre.length) ∨
     (last &&& s.params.irqRx = 0 ∧ last &&& s.params.irqTimer ≠ 0 ∧ t.ret = .bool false ∧
        t.failKind = some .responseTimeout ∧ t.budget.toNat = pollBudget - pre.length) ∨
     (last &&& s.params.irqRx = 0 ∧ last &&& s.params.irqTimer = 0 ∧ pre.length + 1 = pollBudget ∧
        t.ret = .bool false ∧ t.failKind = some .responseTimeout ∧ t.budget.toNat = 0))

/-- Derived (42_exchange_detect.md R144): DETECT is the exchange with the wake-up request under BF_SHORT7 and then a polling
wait, whose result it returns; nothing else is read. State written: TMP, the byte read at X2, and S and BUDGET as the wait
leaves them. The byte of the flag clear, the plain flush and the exact wait are the spec's own decisions D31, D9, D23 and
D34 (log 15). -/
def Obligations.DetectOutcome : Prop :=
  ∀ s : State, ∃ t d vs found, exec .detect s = .next t ∧ DetectFrame s t ∧ Waited s.params vs found ∧
    t.tmp = d ∧ WaitRegs s.params vs t ∧
    t.ret = .bool found ∧ t.failKind = (if found then none else some .responseTimeout) ∧
    t.busTrace = s.busTrace ++ xchgEvents s.params [s.params.wupByte] s.params.bfShort7 d ++ pollEvents s.params vs

/-- Derived (44_uid_retrieval.md R172, R173, R174, R175): UIDRD completes in every state: the select exchange, its polling
wait, then one of the three exits, with the registers each leaves, UID written only on success. That the select exchange is
the six steps of detection, and that the level byte is used unmasked, are the spec's own decisions D10 and D22 (log 15). -/
def Obligations.UidrdOutcome : Prop :=
  ∀ s : State, ∃ t, exec .uidrd s = .next t ∧ UidFrame s t ∧ Retrieved s.params s.busTrace s t

/-- Derived (44_uid_retrieval.md R179, R176, R175): RDUID, issued while DS is `Configured`, completes: detection; with no card
it returns false after the failing poll, with no select exchange; else UID retrieval. If it returns false UID is as before
the call; if true UID[i] is the byte delivered by the i-th read of REG_FIFO_DATA for every i below N. The two phases, the
form of the select exchange, the unmasked level, the flag clear, the flush and the exact wait are the spec's own decisions
D24, D10, D22, D31, D9, D23 and D34 (log 15). With another DS under policy `ungated` RDUID is the same procedure, as
OperationsWithAMeaning says. -/
def Obligations.RduidFillOrFail : Prop :=
  ∀ s : State, s.site = .idle → s.ds = .configured →
    ∃ t d vs found, exec .rduid s = .next t ∧ UidFrame s t ∧ Waited s.params vs found ∧
      (found = false → t.ret = .bool false ∧ t.failKind = some .responseTimeout ∧ t.tmp = d ∧ WaitRegs s.params vs t ∧
        t.lvl = s.lvl ∧ ParseKept s t ∧
        t.busTrace = s.busTrace ++ xchgEvents s.params [s.params.wupByte] s.params.bfShort7 d ++
          pollEvents s.params vs) ∧
      (found = true → Retrieved s.params
        (s.busTrace ++ xchgEvents s.params [s.params.wupByte] s.params.bfShort7 d ++ pollEvents s.params vs) s t) ∧
      (t.ret = .bool false → t.uid = s.uid)

/-- Derived (43_polling.md R166): an RDUID makes at least 8 and at most 7 + 10,000 + 8 + 10,000 + 1 + 4 = 20,020 transport calls. -/
def Obligations.RduidTransportCallBound : Prop :=
  ∀ s : State, s.site = .idle → (s.ds = .configured ∨ s.params.policy = .ungated) →
    ∃ t evs, exec .rduid s = .next t ∧ t.busTrace = s.busTrace ++ evs ∧ 8 ≤ evs.length ∧ evs.length ≤ 20020

/-- Derived (60_exceptions.md R196): an RDUID that returned false issued nothing after the read that caused the failure: the last event is that read,
a poll of the interrupt-status register for ResponseTimeout, the FIFO level reading 0 for EmptyResponse. -/
def Obligations.FailedRduidEndsAtFailingRead : Prop :=
  ∀ (s t : State), exec .rduid s = .next t → t.ret = .bool false →
    (t.failKind = some .responseTimeout ∧ ∃ evs d, t.busTrace = s.busTrace ++ evs ++
      [.r (readAddr s.params.regComIrq) d] ∧ d &&& s.params.irqRx = 0) ∨
    (t.failKind = some .emptyResponse ∧ ∃ evs, t.busTrace = s.busTrace ++ evs ++
      [.r (readAddr s.params.regFifoLevel) 0])

/-! ## The site table -/

/-- Derived (10_state.md R23, third column): at a site of the table one step adds exactly the site's transport event, and none at IDLE, U3 and
END. -/
def Obligations.SiteMakesItsTransportCall : Prop :=
  ∀ s : State, siteLegal s.params s = true →
    (siteStep s.params s).busTrace = s.busTrace ++ (siteEvent s.params s).toList ∧
    ((siteEvent s.params s).isNone = true ↔
      s.site = .idle ∨ s.site = .u3 ∨ ∃ ret kind, s.site = .opEnd ret kind)

/-- Derived (10_state.md R23, fourth column): the next site. Conditions are on the parameters, the answer the environment gives, and the
registers. -/
def Obligations.SiteSuccessors : Prop :=
  ∀ (s : State) (ph : Phase) (k : Nat),
    (s.site = .i1 → (siteStep s.params s).site =
      if initAnswer s then .i2 else .opEnd (.status .error) (some .transportSetupError)) ∧
    (s.site = .i2 → (siteStep s.params s).site = if s.params.timerProgram = [] then .i4 else .i3 0) ∧
    (s.site = .i3 k → (siteStep s.params s).site =
      if k + 1 < s.params.timerProgram.length then .i3 (k + 1) else .i4) ∧
    (s.site = .i4 → (siteStep s.params s).site = .i5) ∧
    (s.site = .i5 → (siteStep s.params s).site =
      if memReadByte s.params.regTxControl s &&& s.params.txEn = s.params.txEn then .opEnd (.status .ok) none
      else .i6) ∧
    (s.site = .i6 → (siteStep s.params s).site = .opEnd (.status .ok) none) ∧
    (s.site = .s1 → (siteStep s.params s).site = .opEnd .nothing none) ∧
    (s.site = .x1 ph → (siteStep s.params s).site = .x2 ph) ∧
    (s.site = .x2 ph → (siteStep s.params s).site = .x3 ph) ∧
    (s.site = .x3 ph → (siteStep s.params s).site = .x4 ph) ∧
    (s.site = .x4 ph → (siteStep s.params s).site = .x5 ph 0) ∧
    (s.site = .x5 ph k → (siteStep s.params s).site =
      if ph = .sel ∧ k = 0 then .x5 ph 1 else .x6 ph) ∧
    (s.site = .x6 ph → (siteStep s.params s).site = .x7 ph) ∧
    (s.site = .x7 ph → (siteStep s.params s).site = .p1 ph ∧ pollIndex (siteStep s.params s) = 1) ∧
    (s.site = .p1 ph → 1 ≤ s.budget.toNat → (siteStep s.params s).site =
      if memReadByte s.params.regComIrq s &&& s.params.irqRx ≠ 0 then (if ph = .det then .x1 .sel else .u1)
      else if memReadByte s.params.regComIrq s &&& s.params.irqTimer ≠ 0 ∨ s.budget = 1
        then .opEnd (.bool false) (some .responseTimeout)
      else .p1 ph) ∧
    (s.site = .u1 → (siteStep s.params s).site =
      if memReadByte s.params.regFifoLevel s = 0 then .opEnd (.bool false) (some .emptyResponse) else .u2) ∧
    (s.site = .u2 → s.idx.toNat < s.n.toNat → s.n.toNat ≤ 4 → (siteStep s.params s).site =
      if s.idx.toNat + 1 < s.n.toNat then .u2 else .u3) ∧
    (s.site = .u3 → (siteStep s.params s).site = .opEnd (.bool true) none) ∧
    (∀ ret kind, s.site = .opEnd ret kind → (siteStep s.params s).site = .idle ∧ (siteStep s.params s).ret = ret)

/-- Derived (10_state.md R23, R28): INIT and RESET run site by site from their first site reach IDLE in exactly the state
the one call gives, INIT within len(TIMER_PROGRAM) + 6 sites (END included), RESET within 2. -/
def Obligations.InitAndResetSitesMatchCall : Prop :=
  ∀ s : State, s.site = .idle →
    (∃ k, k ≤ s.params.timerProgram.length + 6 ∧
      exec .init s = .next (siteRun s.params k { s with site := .i1 })) ∧
    ((s.ds = .configured ∨ s.params.policy = .ungated) →
      exec .reset s = .next (siteRun s.params 2 { s with site := .s1 }))

/-- Derived (10_state.md R23, R28): RDUID run site by site from (DET, X1) reaches IDLE in exactly the state the one call
gives, within 2 * POLL_BUDGET + 22 sites (the 20,020 transport calls of R166, U3 and END). -/
def Obligations.RduidSitesMatchCall : Prop :=
  ∀ s : State, s.site = .idle → (s.ds = .configured ∨ s.params.policy = .ungated) →
    ∃ k, k ≤ 2 * pollBudget + 22 ∧
      exec .rduid s = .next (siteRun s.params k { s with site := .x1 .det })

/-- Derived (43_polling.md R164): from every state that meets the invariant the sequencer is back at IDLE within a bounded
number of sites, whatever the environment answers. -/
def Obligations.SequencerReturnsToIdle : Prop :=
  ∀ s : State, s.Inv →
    ∃ k, k ≤ 2 * pollBudget + 22 + s.params.timerProgram.length ∧ (siteRun s.params k s).site = .idle

/-! ## Whole-machine rules -/

/-- Derived (10_state.md R21, R23, 30_encoding.md R81): every step keeps the invariant. -/
def Obligations.StepKeepsInvariant : Prop :=
  ∀ s t : State, s.Inv → step s = .next t → t.Inv

/-- Derived (10_state.md R42): the state after reset meets the invariant. It rests on profile P-GK (log 2). -/
def Obligations.ResetMeetsInvariant : Prop :=
  State.reset.Inv

/-- Derived (70_reset_and_hazards.md R221, 10_state.md R42), the values the spec gives: after the block's own reset DS is `Uninitialized`, SITE is `IDLE`, no value
has been returned and no transport call made. -/
def Obligations.ResetState : Prop :=
  State.reset.ds = .uninitialized ∧ State.reset.site = .idle ∧ State.reset.ret = .nothing ∧
    State.reset.busTrace = []

/-- Derived (10_state.md R41): no instruction and no step changes a parameter. -/
def Obligations.ParametersNeverChange : Prop :=
  (∀ (i : Instr) (s t : State), exec i s = .next t → t.params = s.params) ∧
  (∀ s t : State, step s = .next t → t.params = s.params)

/-- Derived (10_state.md R21): DS is written only by INIT: no other instruction changes it, and a step that changes it is
one of INIT's sites I1, I5 and I6, or a call of INIT. -/
def Obligations.OnlyInitWritesDS : Prop :=
  (∀ (i : Instr) (s t : State), i ≠ .init → exec i s = .next t → t.ds = s.ds) ∧
  (∀ s t : State, step s = .next t → t.ds ≠ s.ds →
    s.site = .i1 ∨ s.site = .i5 ∨ s.site = .i6 ∨
    (s.site = .idle ∧ ∃ r rest, s.host = .call r :: rest ∧ decode r = .instr .init))

/-- Derived (41_init_reset.md R125): "There is no `Configured → Uninitialized` transition": no step, of a whole call or of one site, leads back to
`Uninitialized`. -/
def Obligations.NoStepBackToUninitialized : Prop :=
  ∀ s t : State, step s = .next t → s.ds ≠ .uninitialized → t.ds ≠ .uninitialized

/-- Derived (10_state.md R26): the only steps that change the UID bank are the commit of site U3, a call of RDUID that returns true, and the
host's own write. -/
def Obligations.UidChangesOnlyOnSuccess : Prop :=
  ∀ s t : State, step s = .next t → t.uid ≠ s.uid →
    s.site = .u3 ∨
    (s.site = .idle ∧ ∃ r rest, s.host = .call r :: rest ∧ decode r = .instr .rduid ∧ t.ret = .bool true) ∨
    (s.site = .idle ∧ ∃ i v rest, s.host = .writeUid i v :: rest)

/-- Derived (10_state.md R26, "The block never reads it"): with another UID bank every instruction has the same outcome, and its next state
differs at most in that the bank, if not written, still holds the other value. -/
def Obligations.UidBankNeverRead : Prop :=
  ∀ (i : Instr) (s : State) (u : Bank),
    (∀ t, exec i s = .next t →
      exec i { s with uid := u } = .next t ∨ (t.uid = s.uid ∧ exec i { s with uid := u } = .next { t with uid := u })) ∧
    (∀ r, exec i s = .refused r → exec i { s with uid := u } = .refused r)

/-- R43: the working registers and STG are dead between operations: from two states that differ only there, a host
operation gives next states that differ only there, the same UID, result, DS and trace among them. -/
def Obligations.WorkingRegistersDeadBetweenOperations : Prop :=
  ∀ (i : Instr) (s t s' : State), i = .nop ∨ i = .init ∨ i = .reset ∨ i = .rduid → SameBetween s t →
    exec i s = .next s' → ∃ t', exec i t = .next t' ∧ SameBetween s' t'

/-- Derived (20_memory.md R63): no step drops or alters an event of the trace. -/
def Obligations.TraceOnlyGrows : Prop :=
  ∀ s t : State, step s = .next t → ∃ evs, t.busTrace = s.busTrace ++ evs

/-- Derived (30_encoding.md R96): every event a host operation adds to the trace is one of the shapes the trace decoder
lists, for every parameter set. -/
def Obligations.HostOperationEventsHaveListedShapes : Prop :=
  ∀ (i : Instr) (s t : State), i = .nop ∨ i = .init ∨ i = .reset ∨ i = .rduid → exec i s = .next t →
    ∃ evs, t.busTrace = s.busTrace ++ evs ∧ ∀ e ∈ evs, eventShape s.params e = true

/-! ## The decoder of bus traces -/

/-- Derived (30_encoding.md R96): the event a site of the table makes has a shape that names that site. -/
def Obligations.EventShapeNamesItsSite : Prop :=
  ∀ (s : State) (e : BusEvent), siteLegal s.params s = true → siteEvent s.params s = some e →
    ∃ name, siteName s.site = some name ∧ name ∈ eventSites s.params e

/-- Derived (30_encoding.md R96): sites that share a shape are told apart by position: from a site of the table, the events
that a run of the sequencer adds to the trace decode to exactly the sites that made them, in order. -/
def Obligations.RunTraceTellsItsSites : Prop :=
  ∀ (s : State) (k : Nat), siteLegal s.params s = true →
    ∃ evs, evs.length ≤ k ∧ (siteRun s.params k s).busTrace = s.busTrace ++ evs ∧
      traceSites s.params evs s = some ((List.range evs.length).map (fun j => (siteRun s.params j s).site))

/-- Derived (30_encoding.md R96, 10_state.md R42): the events that a host operation adds to the trace decode, from the
parameters, the host code and the events alone, to one site of the table each. -/
def Obligations.HostOperationTraceDecodes : Prop :=
  ∀ (op : BitVec 2) (s t : State), s.site = .idle → exec (decodeHost op) s = .next t →
    ∃ evs sites, t.busTrace = s.busTrace ++ evs ∧ decodeTrace s.params op evs = some sites ∧
      sites.length = evs.length

/-! ## The parameters -/

/-- Derived (10_state.md R41): the parameters are an argument and no state: exec and step are execWith and stepWith, which
take them as an argument and act on a run that does not hold them, with the same parameters put back beside it; and what a
run starts from is the same for every parameter set. -/
def Obligations.ParametersAreAnArgument : Prop :=
  (∀ (i : Instr) (s : State), exec i s = mapNext (Run.under s.params) (execWith s.params i s.toRun)) ∧
  (∀ s : State, step s = mapNext (Run.under s.params) (stepWith s.params s.toRun)) ∧
  (∀ p : Params, (State.resetWith p).toRun = (coreWith p).reset ∧ (coreWith p).reset = Run.reset)
end

