-- ==== Sys2Proof/Laws/State.lean ====
section
/-! SUPPORT. What each named operation does to each field of the state, one lemma per field per operation, so that no
later proof unfolds a record update; and the trace in order. -/

namespace Sys2Proof.Machine

@[simp] theorem transportInit_ds (s : State) : (transportInit s).ds = s.ds := rfl
@[simp] theorem transportInit_site (s : State) : (transportInit s).site = s.site := rfl
@[simp] theorem transportInit_tmp (s : State) : (transportInit s).tmp = s.tmp := rfl
@[simp] theorem transportInit_sReg (s : State) : (transportInit s).sReg = s.sReg := rfl
@[simp] theorem transportInit_budget (s : State) : (transportInit s).budget = s.budget := rfl
@[simp] theorem transportInit_lvl (s : State) : (transportInit s).lvl = s.lvl := rfl
@[simp] theorem transportInit_n (s : State) : (transportInit s).n = s.n := rfl
@[simp] theorem transportInit_idx (s : State) : (transportInit s).idx = s.idx := rfl
@[simp] theorem transportInit_stg (s : State) : (transportInit s).stg = s.stg := rfl
@[simp] theorem transportInit_uid (s : State) : (transportInit s).uid = s.uid := rfl
@[simp] theorem transportInit_ret (s : State) : (transportInit s).ret = s.ret := rfl
@[simp] theorem transportInit_traceRev (s : State) : (transportInit s).traceRev = .ti (initAnswer s) :: s.traceRev := rfl
@[simp] theorem transportInit_failKind (s : State) : (transportInit s).failKind = s.failKind := rfl
@[simp] theorem transportInit_params (s : State) : (transportInit s).params = s.params := rfl
@[simp] theorem transportInit_envInits (s : State) : (transportInit s).envInits = s.envInits.tail := rfl
@[simp] theorem transportInit_envReads (s : State) : (transportInit s).envReads = s.envReads := rfl
@[simp] theorem transportInit_draws (s : State) : (transportInit s).draws = s.draws + 1 := rfl
@[simp] theorem transportInit_host (s : State) : (transportInit s).host = s.host := rfl

@[simp] theorem transportWrite_ds (a d : Byte) (s : State) : (transportWrite a d s).ds = s.ds := rfl
@[simp] theorem transportWrite_site (a d : Byte) (s : State) : (transportWrite a d s).site = s.site := rfl
@[simp] theorem transportWrite_tmp (a d : Byte) (s : State) : (transportWrite a d s).tmp = s.tmp := rfl
@[simp] theorem transportWrite_sReg (a d : Byte) (s : State) : (transportWrite a d s).sReg = s.sReg := rfl
@[simp] theorem transportWrite_budget (a d : Byte) (s : State) : (transportWrite a d s).budget = s.budget := rfl
@[simp] theorem transportWrite_lvl (a d : Byte) (s : State) : (transportWrite a d s).lvl = s.lvl := rfl
@[simp] theorem transportWrite_n (a d : Byte) (s : State) : (transportWrite a d s).n = s.n := rfl
@[simp] theorem transportWrite_idx (a d : Byte) (s : State) : (transportWrite a d s).idx = s.idx := rfl
@[simp] theorem transportWrite_stg (a d : Byte) (s : State) : (transportWrite a d s).stg = s.stg := rfl
@[simp] theorem transportWrite_uid (a d : Byte) (s : State) : (transportWrite a d s).uid = s.uid := rfl
@[simp] theorem transportWrite_ret (a d : Byte) (s : State) : (transportWrite a d s).ret = s.ret := rfl
@[simp] theorem transportWrite_traceRev (a d : Byte) (s : State) : (transportWrite a d s).traceRev = .w a d :: s.traceRev := rfl
@[simp] theorem transportWrite_failKind (a d : Byte) (s : State) : (transportWrite a d s).failKind = s.failKind := rfl
@[simp] theorem transportWrite_params (a d : Byte) (s : State) : (transportWrite a d s).params = s.params := rfl
@[simp] theorem transportWrite_envInits (a d : Byte) (s : State) : (transportWrite a d s).envInits = s.envInits := rfl
@[simp] theorem transportWrite_envReads (a d : Byte) (s : State) : (transportWrite a d s).envReads = s.envReads := rfl
@[simp] theorem transportWrite_draws (a d : Byte) (s : State) : (transportWrite a d s).draws = s.draws := rfl
@[simp] theorem transportWrite_host (a d : Byte) (s : State) : (transportWrite a d s).host = s.host := rfl

@[simp] theorem transportRead_ds (a : Byte) (s : State) : (transportRead a s).ds = s.ds := rfl
@[simp] theorem transportRead_site (a : Byte) (s : State) : (transportRead a s).site = s.site := rfl
@[simp] theorem transportRead_tmp (a : Byte) (s : State) : (transportRead a s).tmp = s.tmp := rfl
@[simp] theorem transportRead_sReg (a : Byte) (s : State) : (transportRead a s).sReg = s.sReg := rfl
@[simp] theorem transportRead_budget (a : Byte) (s : State) : (transportRead a s).budget = s.budget := rfl
@[simp] theorem transportRead_lvl (a : Byte) (s : State) : (transportRead a s).lvl = s.lvl := rfl
@[simp] theorem transportRead_n (a : Byte) (s : State) : (transportRead a s).n = s.n := rfl
@[simp] theorem transportRead_idx (a : Byte) (s : State) : (transportRead a s).idx = s.idx := rfl
@[simp] theorem transportRead_stg (a : Byte) (s : State) : (transportRead a s).stg = s.stg := rfl
@[simp] theorem transportRead_uid (a : Byte) (s : State) : (transportRead a s).uid = s.uid := rfl
@[simp] theorem transportRead_ret (a : Byte) (s : State) : (transportRead a s).ret = s.ret := rfl
@[simp] theorem transportRead_traceRev (a : Byte) (s : State) : (transportRead a s).traceRev = .r a (readAnswer a s) :: s.traceRev := rfl
@[simp] theorem transportRead_failKind (a : Byte) (s : State) : (transportRead a s).failKind = s.failKind := rfl
@[simp] theorem transportRead_params (a : Byte) (s : State) : (transportRead a s).params = s.params := rfl
@[simp] theorem transportRead_envInits (a : Byte) (s : State) : (transportRead a s).envInits = s.envInits := rfl
@[simp] theorem transportRead_envReads (a : Byte) (s : State) : (transportRead a s).envReads = scriptDrop a s.envReads := rfl
@[simp] theorem transportRead_draws (a : Byte) (s : State) : (transportRead a s).draws = s.draws + 1 := rfl
@[simp] theorem transportRead_host (a : Byte) (s : State) : (transportRead a s).host = s.host := rfl

@[simp] theorem memWrite_ds (c : Code) (v : Byte) (s : State) : (memWrite c v s).ds = s.ds := rfl
@[simp] theorem memWrite_site (c : Code) (v : Byte) (s : State) : (memWrite c v s).site = s.site := rfl
@[simp] theorem memWrite_tmp (c : Code) (v : Byte) (s : State) : (memWrite c v s).tmp = s.tmp := rfl
@[simp] theorem memWrite_sReg (c : Code) (v : Byte) (s : State) : (memWrite c v s).sReg = s.sReg := rfl
@[simp] theorem memWrite_budget (c : Code) (v : Byte) (s : State) : (memWrite c v s).budget = s.budget := rfl
@[simp] theorem memWrite_lvl (c : Code) (v : Byte) (s : State) : (memWrite c v s).lvl = s.lvl := rfl
@[simp] theorem memWrite_n (c : Code) (v : Byte) (s : State) : (memWrite c v s).n = s.n := rfl
@[simp] theorem memWrite_idx (c : Code) (v : Byte) (s : State) : (memWrite c v s).idx = s.idx := rfl
@[simp] theorem memWrite_stg (c : Code) (v : Byte) (s : State) : (memWrite c v s).stg = s.stg := rfl
@[simp] theorem memWrite_uid (c : Code) (v : Byte) (s : State) : (memWrite c v s).uid = s.uid := rfl
@[simp] theorem memWrite_ret (c : Code) (v : Byte) (s : State) : (memWrite c v s).ret = s.ret := rfl
@[simp] theorem memWrite_traceRev (c : Code) (v : Byte) (s : State) : (memWrite c v s).traceRev = .w (writeAddr c) v :: s.traceRev := rfl
@[simp] theorem memWrite_failKind (c : Code) (v : Byte) (s : State) : (memWrite c v s).failKind = s.failKind := rfl
@[simp] theorem memWrite_params (c : Code) (v : Byte) (s : State) : (memWrite c v s).params = s.params := rfl
@[simp] theorem memWrite_envInits (c : Code) (v : Byte) (s : State) : (memWrite c v s).envInits = s.envInits := rfl
@[simp] theorem memWrite_envReads (c : Code) (v : Byte) (s : State) : (memWrite c v s).envReads = s.envReads := rfl
@[simp] theorem memWrite_draws (c : Code) (v : Byte) (s : State) : (memWrite c v s).draws = s.draws := rfl
@[simp] theorem memWrite_host (c : Code) (v : Byte) (s : State) : (memWrite c v s).host = s.host := rfl

@[simp] theorem memRead_ds (c : Code) (s : State) : (memRead c s).ds = s.ds := rfl
@[simp] theorem memRead_site (c : Code) (s : State) : (memRead c s).site = s.site := rfl
@[simp] theorem memRead_tmp (c : Code) (s : State) : (memRead c s).tmp = s.tmp := rfl
@[simp] theorem memRead_sReg (c : Code) (s : State) : (memRead c s).sReg = s.sReg := rfl
@[simp] theorem memRead_budget (c : Code) (s : State) : (memRead c s).budget = s.budget := rfl
@[simp] theorem memRead_lvl (c : Code) (s : State) : (memRead c s).lvl = s.lvl := rfl
@[simp] theorem memRead_n (c : Code) (s : State) : (memRead c s).n = s.n := rfl
@[simp] theorem memRead_idx (c : Code) (s : State) : (memRead c s).idx = s.idx := rfl
@[simp] theorem memRead_stg (c : Code) (s : State) : (memRead c s).stg = s.stg := rfl
@[simp] theorem memRead_uid (c : Code) (s : State) : (memRead c s).uid = s.uid := rfl
@[simp] theorem memRead_ret (c : Code) (s : State) : (memRead c s).ret = s.ret := rfl
@[simp] theorem memRead_traceRev (c : Code) (s : State) : (memRead c s).traceRev = .r (readAddr c) (memReadByte c s) :: s.traceRev := rfl
@[simp] theorem memRead_failKind (c : Code) (s : State) : (memRead c s).failKind = s.failKind := rfl
@[simp] theorem memRead_params (c : Code) (s : State) : (memRead c s).params = s.params := rfl
@[simp] theorem memRead_envInits (c : Code) (s : State) : (memRead c s).envInits = s.envInits := rfl
@[simp] theorem memRead_envReads (c : Code) (s : State) : (memRead c s).envReads = scriptDrop (readAddr c) s.envReads := rfl
@[simp] theorem memRead_draws (c : Code) (s : State) : (memRead c s).draws = s.draws + 1 := rfl
@[simp] theorem memRead_host (c : Code) (s : State) : (memRead c s).host = s.host := rfl

@[simp] theorem deliver_ds (r : Ret) (k : Option ErrorKind) (s : State) : (deliver r k s).ds = s.ds := rfl
@[simp] theorem deliver_site (r : Ret) (k : Option ErrorKind) (s : State) : (deliver r k s).site = s.site := rfl
@[simp] theorem deliver_tmp (r : Ret) (k : Option ErrorKind) (s : State) : (deliver r k s).tmp = s.tmp := rfl
@[simp] theorem deliver_sReg (r : Ret) (k : Option ErrorKind) (s : State) : (deliver r k s).sReg = s.sReg := rfl
@[simp] theorem deliver_budget (r : Ret) (k : Option ErrorKind) (s : State) : (deliver r k s).budget = s.budget := rfl
@[simp] theorem deliver_lvl (r : Ret) (k : Option ErrorKind) (s : State) : (deliver r k s).lvl = s.lvl := rfl
@[simp] theorem deliver_n (r : Ret) (k : Option ErrorKind) (s : State) : (deliver r k s).n = s.n := rfl
@[simp] theorem deliver_idx (r : Ret) (k : Option ErrorKind) (s : State) : (deliver r k s).idx = s.idx := rfl
@[simp] theorem deliver_stg (r : Ret) (k : Option ErrorKind) (s : State) : (deliver r k s).stg = s.stg := rfl
@[simp] theorem deliver_uid (r : Ret) (k : Option ErrorKind) (s : State) : (deliver r k s).uid = s.uid := rfl
@[simp] theorem deliver_ret (r : Ret) (k : Option ErrorKind) (s : State) : (deliver r k s).ret = r := rfl
@[simp] theorem deliver_traceRev (r : Ret) (k : Option ErrorKind) (s : State) : (deliver r k s).traceRev = s.traceRev := rfl
@[simp] theorem deliver_failKind (r : Ret) (k : Option ErrorKind) (s : State) : (deliver r k s).failKind = k := rfl
@[simp] theorem deliver_params (r : Ret) (k : Option ErrorKind) (s : State) : (deliver r k s).params = s.params := rfl
@[simp] theorem deliver_envInits (r : Ret) (k : Option ErrorKind) (s : State) : (deliver r k s).envInits = s.envInits := rfl
@[simp] theorem deliver_envReads (r : Ret) (k : Option ErrorKind) (s : State) : (deliver r k s).envReads = s.envReads := rfl
@[simp] theorem deliver_draws (r : Ret) (k : Option ErrorKind) (s : State) : (deliver r k s).draws = s.draws := rfl
@[simp] theorem deliver_host (r : Ret) (k : Option ErrorKind) (s : State) : (deliver r k s).host = s.host := rfl

@[simp] theorem commit_ds (s : State) : (commit s).ds = s.ds := rfl
@[simp] theorem commit_site (s : State) : (commit s).site = s.site := rfl
@[simp] theorem commit_tmp (s : State) : (commit s).tmp = s.tmp := rfl
@[simp] theorem commit_sReg (s : State) : (commit s).sReg = s.sReg := rfl
@[simp] theorem commit_budget (s : State) : (commit s).budget = s.budget := rfl
@[simp] theorem commit_lvl (s : State) : (commit s).lvl = s.lvl := rfl
@[simp] theorem commit_n (s : State) : (commit s).n = s.n := rfl
@[simp] theorem commit_idx (s : State) : (commit s).idx = 4 := rfl
@[simp] theorem commit_stg (s : State) : (commit s).stg = settledStaging s := rfl
@[simp] theorem commit_uid (s : State) : (commit s).uid = settledStaging s := rfl
@[simp] theorem commit_ret (s : State) : (commit s).ret = s.ret := rfl
@[simp] theorem commit_traceRev (s : State) : (commit s).traceRev = s.traceRev := rfl
@[simp] theorem commit_failKind (s : State) : (commit s).failKind = s.failKind := rfl
@[simp] theorem commit_params (s : State) : (commit s).params = s.params := rfl
@[simp] theorem commit_envInits (s : State) : (commit s).envInits = s.envInits := rfl
@[simp] theorem commit_envReads (s : State) : (commit s).envReads = s.envReads := rfl
@[simp] theorem commit_draws (s : State) : (commit s).draws = s.draws + 4 := rfl
@[simp] theorem commit_host (s : State) : (commit s).host = s.host := rfl

@[simp] theorem writeUid_ds (i : Fin 4) (v : Byte) (s : State) : (writeUid i v s).ds = s.ds := rfl
@[simp] theorem writeUid_site (i : Fin 4) (v : Byte) (s : State) : (writeUid i v s).site = s.site := rfl
@[simp] theorem writeUid_tmp (i : Fin 4) (v : Byte) (s : State) : (writeUid i v s).tmp = s.tmp := rfl
@[simp] theorem writeUid_sReg (i : Fin 4) (v : Byte) (s : State) : (writeUid i v s).sReg = s.sReg := rfl
@[simp] theorem writeUid_budget (i : Fin 4) (v : Byte) (s : State) : (writeUid i v s).budget = s.budget := rfl
@[simp] theorem writeUid_lvl (i : Fin 4) (v : Byte) (s : State) : (writeUid i v s).lvl = s.lvl := rfl
@[simp] theorem writeUid_n (i : Fin 4) (v : Byte) (s : State) : (writeUid i v s).n = s.n := rfl
@[simp] theorem writeUid_idx (i : Fin 4) (v : Byte) (s : State) : (writeUid i v s).idx = s.idx := rfl
@[simp] theorem writeUid_stg (i : Fin 4) (v : Byte) (s : State) : (writeUid i v s).stg = s.stg := rfl
@[simp] theorem writeUid_uid (i : Fin 4) (v : Byte) (s : State) : (writeUid i v s).uid = bankSet s.uid i.val v := rfl
@[simp] theorem writeUid_ret (i : Fin 4) (v : Byte) (s : State) : (writeUid i v s).ret = s.ret := rfl
@[simp] theorem writeUid_traceRev (i : Fin 4) (v : Byte) (s : State) : (writeUid i v s).traceRev = s.traceRev := rfl
@[simp] theorem writeUid_failKind (i : Fin 4) (v : Byte) (s : State) : (writeUid i v s).failKind = s.failKind := rfl
@[simp] theorem writeUid_params (i : Fin 4) (v : Byte) (s : State) : (writeUid i v s).params = s.params := rfl
@[simp] theorem writeUid_envInits (i : Fin 4) (v : Byte) (s : State) : (writeUid i v s).envInits = s.envInits := rfl
@[simp] theorem writeUid_envReads (i : Fin 4) (v : Byte) (s : State) : (writeUid i v s).envReads = s.envReads := rfl
@[simp] theorem writeUid_draws (i : Fin 4) (v : Byte) (s : State) : (writeUid i v s).draws = s.draws := rfl
@[simp] theorem writeUid_host (i : Fin 4) (v : Byte) (s : State) : (writeUid i v s).host = s.host := rfl

/-! The environment's answers depend on nothing but the script and the draw counter. -/

/-- The byte delivered for an address, from the script and the draw counter alone (R60). -/
def delivered (a : Byte) (reads : List (Byte × Byte)) (draws : Nat) : Byte :=
  (scriptFind a reads).getD (Config.readDraw draws a)

theorem readAnswer_eq (a : Byte) (s : State) : readAnswer a s = delivered a s.envReads s.draws := rfl

theorem memReadByte_eq (c : Code) (s : State) : memReadByte c s = delivered (readAddr c) s.envReads s.draws := rfl

theorem readAnswer_script {a e : Byte} {s : State} (h : scriptFind a s.envReads = some e) : readAnswer a s = e := by
  simp [readAnswer, h]

theorem initAnswer_script {b : Bool} {rest : List Bool} {s : State} (h : s.envInits = b :: rest) : initAnswer s = b := by
  simp [initAnswer, h]

/-! The trace in order: a call adds its one event at the end (R12, R63). -/

theorem busTrace_cons {s t : State} {e : BusEvent} (h : t.traceRev = e :: s.traceRev) :
    t.busTrace = s.busTrace ++ [e] := by
  simp [State.busTrace, h]

theorem busTrace_same {s t : State} (h : t.traceRev = s.traceRev) : t.busTrace = s.busTrace := by
  simp [State.busTrace, h]

@[simp] theorem transportInit_busTrace (s : State) :
    (transportInit s).busTrace = s.busTrace ++ [.ti (initAnswer s)] := busTrace_cons rfl

@[simp] theorem transportWrite_busTrace (a d : Byte) (s : State) :
    (transportWrite a d s).busTrace = s.busTrace ++ [.w a d] := busTrace_cons rfl

@[simp] theorem transportRead_busTrace (a : Byte) (s : State) :
    (transportRead a s).busTrace = s.busTrace ++ [.r a (readAnswer a s)] := busTrace_cons rfl

@[simp] theorem memWrite_busTrace (c : Code) (v : Byte) (s : State) :
    (memWrite c v s).busTrace = s.busTrace ++ [.w (writeAddr c) v] := busTrace_cons rfl

@[simp] theorem memRead_busTrace (c : Code) (s : State) :
    (memRead c s).busTrace = s.busTrace ++ [.r (readAddr c) (memReadByte c s)] := busTrace_cons rfl

@[simp] theorem deliver_busTrace (r : Ret) (k : Option ErrorKind) (s : State) : (deliver r k s).busTrace = s.busTrace :=
  rfl

@[simp] theorem commit_busTrace (s : State) : (commit s).busTrace = s.busTrace := rfl

@[simp] theorem writeUid_busTrace (i : Fin 4) (v : Byte) (s : State) : (writeUid i v s).busTrace = s.busTrace := rfl

end Sys2Proof.Machine
end

