-- ==== Sys2Proof/Laws/Procs.lean ====
section
/-! SUPPORT. One lemma per procedure that says everything it does: an equation where the outcome is fixed by the state,
a case list where the environment's answers decide. -/

namespace Sys2Proof.Machine

/-! The shape of the address bytes the block produces (R81). -/

@[simp] theorem addressShape_writeAddr (c : Code) : addressShape false (writeAddr c) = true := by revert c; decide
@[simp] theorem addressShape_readAddr (c : Code) : addressShape true (readAddr c) = true := by revert c; decide
@[simp] theorem wireCode_writeAddr (c : Code) : wireCode (writeAddr c) = c := by revert c; decide
@[simp] theorem wireCode_readAddr (c : Code) : wireCode (readAddr c) = c := by revert c; decide
@[simp] theorem wireShape_ti (ok : Bool) : wireShape (.ti ok) = true := rfl
@[simp] theorem wireShape_w (c : Code) (d : Byte) : wireShape (.w (writeAddr c) d) = true := addressShape_writeAddr c
@[simp] theorem wireShape_r (c : Code) (d : Byte) : wireShape (.r (readAddr c) d) = true := addressShape_readAddr c

/-! Sequences of writes. -/

theorem writeBlock_eq (c : Code) (bytes : List Byte) (s : State) :
    writeBlock c bytes s =
      { s with traceRev := (bytes.map (fun b => BusEvent.w (writeAddr c) b)).reverse ++ s.traceRev } := by
  induction bytes generalizing s with
  | nil => rfl
  | cons b rest ih => rw [writeBlock, ih]; simp [memWrite, transportWrite]

theorem writeProgram_eq (prog : List (Code × Byte)) (s : State) :
    writeProgram prog s =
      { s with traceRev := (prog.map (fun e => BusEvent.w (writeAddr e.1) e.2)).reverse ++ s.traceRev } := by
  induction prog generalizing s with
  | nil => rfl
  | cons e rest ih => rw [writeProgram, ih]; simp [memWrite, transportWrite]

/-! The exchange and the sub-sequences of INIT. -/

/-- What XCHG does (R143): TMP holds the byte of its one read. -/
theorem xchg_eq (p : Params) (cmd : List Byte) (framing : Byte) (s : State) :
    xchg p cmd framing s =
      { s with
        tmp := memReadByte p.regComIrq s
        envReads := scriptDrop (readAddr p.regComIrq) s.envReads
        draws := s.draws + 1
        traceRev := (xchgEvents p cmd framing (memReadByte p.regComIrq s)).reverse ++ s.traceRev } := by
  simp [xchg, loadCard, writeBlock_eq, irqclr, irqRead, irqWrite, flush, chipCommand, startSend, memWrite,
    transportWrite, memRead, transportRead, xchgEvents, irqCleared, memReadByte_eq, readAnswer_eq]

theorem sendCard_eq (p : Params) (c : CardCommand) (s : State) :
    sendCard p c s =
      { s with
        tmp := memReadByte p.regComIrq s
        envReads := scriptDrop (readAddr p.regComIrq) s.envReads
        draws := s.draws + 1
        traceRev := (xchgEvents p c.bytes c.framing (memReadByte p.regComIrq s)).reverse ++ s.traceRev } :=
  xchg_eq p c.bytes c.framing s

/-- The events of ANTON when its read delivered `d` (R123). -/
def antonEvents (p : Params) (d : Byte) : List BusEvent :=
  .r (readAddr p.regTxControl) d ::
    (if d &&& p.txEn = p.txEn then [] else [.w (writeAddr p.regTxControl) (d ||| p.txEn)])

/-- What ANTON does (R123). -/
theorem anton_eq (p : Params) (s : State) :
    anton p s =
      { s with
        tmp := memReadByte p.regTxControl s
        envReads := scriptDrop (readAddr p.regTxControl) s.envReads
        draws := s.draws + 1
        traceRev := (antonEvents p (memReadByte p.regTxControl s)).reverse ++ s.traceRev } := by
  unfold anton antonEvents
  by_cases h : delivered (readAddr p.regTxControl) s.envReads s.draws &&& p.txEn = p.txEn <;>
    simp [antonRead, driverClear, h, antonWrite, driversSet, memWrite, transportWrite, memRead, transportRead,
      memReadByte_eq, readAnswer_eq]

/-- The events of steps 2 to 5 of INIT when the antenna read delivered `d` (R120). -/
def configureEvents (p : Params) (d : Byte) : List BusEvent :=
  .w (writeAddr p.regCommand) p.cmdSoftreset :: p.timerProgram.map (fun e => .w (writeAddr e.1) e.2) ++
    .w (writeAddr p.regTxAsk) p.askValue :: antonEvents p d

/-- What steps 2 to 5 of INIT do (R120). -/
theorem configure_eq (p : Params) (s : State) :
    configure p s =
      { s with
        ds := .configured
        tmp := memReadByte p.regTxControl s
        ret := .status .ok
        failKind := none
        envReads := scriptDrop (readAddr p.regTxControl) s.envReads
        draws := s.draws + 1
        traceRev := (configureEvents p (memReadByte p.regTxControl s)).reverse ++ s.traceRev } := by
  simp [configure, anton_eq, askcfg, tmrcfg, writeProgram_eq, chipCommand, memWrite, transportWrite, deliver,
    configureEvents, memReadByte_eq]

/-! The polling wait. -/

/-- What the read of one poll does (R161). -/
theorem pollRead_eq (p : Params) (s : State) :
    pollRead p s =
      { s with
        sReg := memReadByte p.regComIrq s
        envReads := scriptDrop (readAddr p.regComIrq) s.envReads
        draws := s.draws + 1
        traceRev := .r (readAddr p.regComIrq) (memReadByte p.regComIrq s) :: s.traceRev } := rfl

/-- What a polling wait with BUDGET = k + 1 does (R161, R162): the bytes read, all but the last with neither flag, and the
exit the last one takes. -/
theorem pollLoop_spec (p : Params) (k : Nat) (s : State) (hk : k + 1 ≤ pollBudget)
    (hb : s.budget = BitVec.ofNat 14 (k + 1)) :
    ∃ pre last reads, (pollLoop p (k + 1) s).2 =
        { s with
          sReg := last
          budget := if rxSeen p last || timerSeen p last then BitVec.ofNat 14 (k + 1 - pre.length) else 0
          envReads := reads
          draws := s.draws + (pre.length + 1)
          traceRev := (pollEvents p (pre ++ [last])).reverse ++ s.traceRev } ∧
      (∀ v ∈ pre, rxSeen p v = false ∧ timerSeen p v = false) ∧
      (pollLoop p (k + 1) s).1 = rxSeen p last ∧
      pre.length ≤ k ∧
      (rxSeen p last = false → timerSeen p last = false → pre.length = k) := by
  induction k generalizing s with
  | zero =>
    refine ⟨[], memReadByte p.regComIrq s, scriptDrop (readAddr p.regComIrq) s.envReads, ?_⟩
    cases hr : rxSeen p (memReadByte p.regComIrq s) <;> cases ht : timerSeen p (memReadByte p.regComIrq s) <;>
      simp [pollLoop, pollRead_eq, hr, ht, hb, pollEvents]
  | succ k ih =>
    by_cases hx : rxSeen p (memReadByte p.regComIrq s) = true ∨ timerSeen p (memReadByte p.regComIrq s) = true
    · refine ⟨[], memReadByte p.regComIrq s, scriptDrop (readAddr p.regComIrq) s.envReads, ?_⟩
      rw [pollLoop]
      cases hr : rxSeen p (memReadByte p.regComIrq s) <;> cases ht : timerSeen p (memReadByte p.regComIrq s) <;>
        simp [hr, ht] at hx <;> simp [pollRead_eq, hr, ht, hb, pollEvents]
    · obtain ⟨hr, ht⟩ : rxSeen p (memReadByte p.regComIrq s) = false ∧ timerSeen p (memReadByte p.regComIrq s) = false := by
        simpa using hx
      obtain ⟨pre, last, reads, h1, h2, h3, h4, h5⟩ :=
        ih { pollRead p s with budget := BitVec.ofNat 14 (k + 1) } (by omega) rfl
      have hstep : pollLoop p (k + 1 + 1) s = pollLoop p (k + 1) { pollRead p s with budget := BitVec.ofNat 14 (k + 1) } := by
        rw [pollLoop]; simp [pollRead_eq, hr, ht]
      refine ⟨memReadByte p.regComIrq s :: pre, last, reads, ?_, ?_, ?_, ?_, ?_⟩
      · rw [hstep, h1]
        simp [pollRead_eq, pollEvents]
        omega
      · simp only [List.mem_cons, forall_eq_or_imp]; exact ⟨⟨hr, ht⟩, h2⟩
      · rw [hstep, h3]
      · simpa using h4
      · intro a b; simpa using h5 a b

/-- What POLL does, with the registers it leaves (R161). -/
theorem poll_spec (p : Params) (s : State) :
    ∃ pre last reads, (poll p s).2 =
        { s with
          sReg := last
          budget := if rxSeen p last || timerSeen p last then BitVec.ofNat 14 (pollBudget - pre.length) else 0
          envReads := reads
          draws := s.draws + (pre.length + 1)
          traceRev := (pollEvents p (pre ++ [last])).reverse ++ s.traceRev } ∧
      (∀ v ∈ pre, rxSeen p v = false ∧ timerSeen p v = false) ∧
      (poll p s).1 = rxSeen p last ∧
      pre.length + 1 ≤ pollBudget ∧
      (rxSeen p last = false → timerSeen p last = false → pre.length + 1 = pollBudget) := by
  obtain ⟨pre, last, reads, h1, h2, h3, h4, h5⟩ :=
    pollLoop_spec p 9999 { s with budget := BitVec.ofNat 14 pollBudget } (by decide) rfl
  refine ⟨pre, last, reads, h1, h2, h3, ?_, ?_⟩
  · simp only [pollBudget]; omega
  · intro a b; simp only [pollBudget]; have := h5 a b; omega

/-- What POLL does, in the terms of a complete polling wait (R161, R162). -/
theorem poll_waited (p : Params) (s : State) :
    ∃ vs found last budget reads draws, poll p s =
        (found, { s with
          sReg := last, budget := budget, envReads := reads, draws := draws
          traceRev := (pollEvents p vs).reverse ++ s.traceRev }) ∧
      Waited p vs found ∧ WaitRegs p vs (poll p s).2 := by
  obtain ⟨pre, last, reads, h1, h2, h3, h4, h5⟩ := poll_spec p s
  refine ⟨pre ++ [last], rxSeen p last, last, _, reads, _, Prod.ext h3 h1, ⟨pre, last, rfl, ?_, by simpa using h4, ?_⟩, ?_, ?_⟩
  · simpa [rxSeen, timerSeen] using h2
  · by_cases hr : last &&& p.irqRx = 0
    · by_cases ht : last &&& p.irqTimer = 0
      · exact .inr (.inr ⟨hr, ht, by simpa using h5 (by simp [rxSeen, hr]) (by simp [timerSeen, ht]), by simp [rxSeen, hr]⟩)
      · exact .inr (.inl ⟨hr, ht, by simp [rxSeen, hr]⟩)
    · exact .inl ⟨hr, by simpa [rxSeen] using hr⟩
  · rw [h1]; simp
  · have hq : pre.filter (fun v => v &&& p.irqRx == 0 && v &&& p.irqTimer == 0) = pre := by
      refine List.filter_eq_self.mpr fun v hv => ?_
      simpa [rxSeen, timerSeen] using h2 v hv
    rw [h1, List.filter_append, hq]
    cases hr : rxSeen p last <;> cases ht : timerSeen p last <;>
      simp_all [rxSeen, timerSeen, pollBudget] <;> omega

/-- A complete polling wait reads 1 to POLL_BUDGET bytes (R164). -/
theorem Waited.length_bounds {p : Params} {vs : List Byte} {found : Bool} (h : Waited p vs found) :
    1 ≤ vs.length ∧ vs.length ≤ pollBudget := by
  obtain ⟨pre, last, rfl, -, hl, -⟩ := h
  exact ⟨by simp, hl⟩

/-- The last byte of a wait that failed has IRQ_RX clear (R161). -/
theorem Waited.last_of_failed {p : Params} {vs : List Byte} (h : Waited p vs false) :
    ∃ pre last, vs = pre ++ [last] ∧ last &&& p.irqRx = 0 := by
  obtain ⟨pre, last, rfl, -, -, h⟩ := h
  refine ⟨pre, last, rfl, ?_⟩
  rcases h with ⟨-, h⟩ | ⟨h, -⟩ | ⟨h, -⟩
  · cases h
  · exact h
  · exact h

/-! UID retrieval. -/

/-- A bank with the bytes of a list written from index `i` on. -/
def bankFill (b : Bank) (i : Nat) : List Byte → Bank
  | [] => b
  | v :: rest => bankFill (bankSet b i v) (i + 1) rest

/-- What `k` FIFO reads do (R174): the bytes delivered, in order, from STG[IDX] on. -/
theorem stageBytes_spec (p : Params) (k : Nat) (s : State) (h : s.idx.toNat + k ≤ 4) :
    ∃ bytes reads, bytes.length = k ∧
      stageBytes p k s =
        { s with
          stg := bankFill s.stg s.idx.toNat bytes
          idx := s.idx + BitVec.ofNat 3 k
          envReads := reads
          draws := s.draws + k
          traceRev := (bytes.map (fun b => BusEvent.r (readAddr p.regFifoData) b)).reverse ++ s.traceRev } := by
  induction k generalizing s with
  | zero => exact ⟨[], s.envReads, rfl, by simp [stageBytes, bankFill]⟩
  | succ k ih =>
    have hidx : (s.idx + 1).toNat = s.idx.toNat + 1 := by
      rw [BitVec.toNat_add]; simp; omega
    have hnext : (stageByte p s).idx = s.idx + 1 := rfl
    obtain ⟨bytes, reads, hl, he⟩ := ih (stageByte p s) (by rw [hnext, hidx]; omega)
    refine ⟨memReadByte p.regFifoData s :: bytes, reads, by simp [hl], ?_⟩
    rw [stageBytes, he, hnext, hidx]
    have hadd : s.idx + 1 + BitVec.ofNat 3 k = s.idx + BitVec.ofNat 3 (k + 1) := by
      rw [BitVec.ofNat_add, BitVec.add_assoc, BitVec.add_comm 1]
      rfl
    simp only [hadd]
    simp [stageByte, bankFill]
    omega

/-- The bytes staged are read back in order (R61). -/
theorem bankGet_bankFill (b : Bank) (bytes : List Byte) (hl : bytes.length ≤ 4) (i : Fin 4) (hi : i.val < bytes.length) :
    bytes[i.val]? = some (bankGet (bankFill b 0 bytes) i) := by
  rcases bytes with _ | ⟨v0, _ | ⟨v1, _ | ⟨v2, _ | ⟨v3, _ | ⟨v4, rest⟩⟩⟩⟩⟩
  all_goals first
    | (simp at hl; omega)
    | (fin_cases i <;> simp at hi ⊢ <;> simp [bankGet, bankFill, bankSet])

/-- STG below N is not drawn (R177). -/
theorem bankGet_settledStaging (s : State) (i : Fin 4) (hi : i.val < s.n.toNat) :
    bankGet (settledStaging s) i = bankGet s.stg i := by
  fin_cases i <;> simp at hi <;> simp [bankGet, settledStaging] <;> omega

/-- N = min(LVL, 4) (R173). -/
theorem clampLevel_toNat (l : Byte) : (clampLevel l).toNat = min l.toNat 4 := by
  simp only [clampLevel, uidSize, BitVec.toNat_ofNat]
  omega

/-- What the parse does once the level is not 0 (R175): N reads, then the commit. -/
theorem parseUid_spec (p : Params) (s : State) :
    ∃ (bytes : List Byte) (reads : List (Byte × Byte)) (uid : Bank) (draws : Nat), bytes.length = min s.lvl.toNat 4 ∧
      (∀ i : Fin 4, i.val < bytes.length → bytes[i.val]? = some (bankGet uid i)) ∧
      parseUid p s =
        { s with
          n := clampLevel s.lvl, idx := 4, stg := uid, uid := uid, envReads := reads, draws := draws
          traceRev := (bytes.map (fun b => BusEvent.r (readAddr p.regFifoData) b)).reverse ++ s.traceRev } := by
  obtain ⟨bytes, reads, hl, he⟩ := stageBytes_spec p (clampLevel s.lvl).toNat (startParse s)
    (by simp [startParse, clampLevel_toNat])
  have hp : parseUid p s = commit (stageBytes p (clampLevel s.lvl).toNat (startParse s)) := rfl
  refine ⟨bytes, reads, (parseUid p s).uid, (parseUid p s).draws, by rw [hl, clampLevel_toNat], ?_, ?_⟩
  · intro i hi
    rw [hp, he, commit_uid, bankGet_settledStaging _ _ (by simpa [startParse, hl] using hi)]
    exact bankGet_bankFill _ _ (by rw [hl, clampLevel_toNat]; omega) i hi
  · rw [hp, he]; rfl

/-! The exchange with its polling wait, and UID retrieval. -/

/-- An exchange with a card command and the polling wait after it (R144, R175 steps 1 and 2). -/
theorem exchange_waited (p : Params) (c : CardCommand) (s : State) :
    ∃ d vs found last budget reads draws, poll p (sendCard p c s) =
        (found, { s with
          tmp := d, sReg := last, budget := budget, envReads := reads, draws := draws
          traceRev := (xchgEvents p c.bytes c.framing d ++ pollEvents p vs).reverse ++ s.traceRev }) ∧
      Waited p vs found ∧ WaitRegs p vs (poll p (sendCard p c s)).2 := by
  obtain ⟨vs, found, last, b, reads, dr, h1, h2, h3⟩ := poll_waited p (sendCard p c s)
  refine ⟨memReadByte p.regComIrq s, vs, found, last, b, reads, dr, ?_, h2, h3⟩
  rw [h1, sendCard_eq]
  simp

/-- What the level read and the parse do (R175 steps 3 to 6): empty, or N bytes staged and committed. -/
theorem retrieve_cases (p : Params) (s : State) :
    (∃ reads draws, retrieve p s =
      (some .emptyResponse, { s with
        lvl := 0, envReads := reads, draws := draws
        traceRev := .r (readAddr p.regFifoLevel) 0 :: s.traceRev })) ∨
    (∃ (level : Byte) (bytes : List Byte) (reads : List (Byte × Byte)) (uid : Bank) (draws : Nat), level ≠ 0 ∧
      bytes.length = min level.toNat 4 ∧
      (∀ i : Fin 4, i.val < bytes.length → bytes[i.val]? = some (bankGet uid i)) ∧
      retrieve p s = (none, { s with
        lvl := level, n := clampLevel level, idx := 4, stg := uid, uid := uid, envReads := reads, draws := draws
        traceRev := (bytes.map (fun b => BusEvent.r (readAddr p.regFifoData) b)).reverse ++
          .r (readAddr p.regFifoLevel) level :: s.traceRev })) := by
  by_cases h : (levelRead p s).lvl = 0
  · left
    have hl : memReadByte p.regFifoLevel s = 0 := h
    refine ⟨scriptDrop (readAddr p.regFifoLevel) s.envReads, s.draws + 1, ?_⟩
    simp [retrieve, levelRead, hl, memRead, transportRead, show readAnswer (readAddr p.regFifoLevel) s = 0 from hl]
  · right
    obtain ⟨bytes, reads, uid, draws, h1, h2, h3⟩ := parseUid_spec p (levelRead p s)
    refine ⟨(levelRead p s).lvl, bytes, reads, uid, draws, h, h1, h2, ?_⟩
    simp only [retrieve, h, if_false, h3]
    rfl

/-- `Retrieved` looks at the state before only for LVL and what the parse writes. -/
theorem Retrieved.of_parseKept {p : Params} {before : List BusEvent} {s s' t : State} (hl : s'.lvl = s.lvl)
    (h : ParseKept s s') (hr : Retrieved p before s t) : Retrieved p before s' t := by
  obtain ⟨hn, hi, hg, hu⟩ := h
  simp only [Retrieved, ParseKept] at *
  rw [hl, hn, hi, hg, hu]; exact hr

end Sys2Proof.Machine
end

