-- ==== Sys2Proof/Laws/Sites.lean ====
section
/-! SUPPORT. The procedures neither read nor, but for the commit, write DS, SITE and UID; and the runs of the site table
(spec/10_state.md R23) through the timer program, an exchange, a polling wait and the FIFO reads, each equal to the
procedure it is the sites of. -/

namespace Sys2Proof.Machine

/-- The state with another DS, SITE and UID bank. -/
def State.recast (d : DS) (x : Site) (u : Bank) (s : State) : State :=
  { s with ds := d, site := x, uid := u }

/-! DS, SITE and UID are not read. -/

theorem sendCard_recast (p : Params) (c : CardCommand) (d : DS) (x : Site) (u : Bank) (s : State) :
    sendCard p c (s.recast d x u) = (sendCard p c s).recast d x u := by
  rw [sendCard_eq, sendCard_eq]; rfl

theorem pollLoop_recast (p : Params) (d : DS) (x : Site) (u : Bank) (k : Nat) (s : State) :
    pollLoop p k (s.recast d x u) = ((pollLoop p k s).1, (pollLoop p k s).2.recast d x u) := by
  induction k generalizing s with
  | zero => rfl
  | succ k ih =>
    have hp : pollRead p (s.recast d x u) = (pollRead p s).recast d x u := rfl
    have hs : ((pollRead p s).recast d x u).sReg = (pollRead p s).sReg := rfl
    simp only [pollLoop, hp, hs]
    split
    · rfl
    · split
      · rfl
      · exact ih { pollRead p s with budget := BitVec.ofNat 14 k }

theorem poll_recast (p : Params) (d : DS) (x : Site) (u : Bank) (s : State) :
    poll p (s.recast d x u) = ((poll p s).1, (poll p s).2.recast d x u) :=
  pollLoop_recast p d x u pollBudget { s with budget := BitVec.ofNat 14 pollBudget }

theorem stageBytes_recast (p : Params) (d : DS) (x : Site) (u : Bank) (k : Nat) (s : State) :
    stageBytes p k (s.recast d x u) = (stageBytes p k s).recast d x u := by
  induction k generalizing s with
  | zero => rfl
  | succ k ih => exact ih (stageByte p s)

/-- The parse writes UID whatever it held. -/
theorem parseUid_recast (p : Params) (d : DS) (x : Site) (u : Bank) (s : State) :
    parseUid p (s.recast d x u) = (parseUid p s).recast d x (parseUid p s).uid := by
  have h : startParse (s.recast d x u) = (startParse s).recast d x u := rfl
  have hn : ((startParse s).recast d x u).n = (startParse s).n := rfl
  simp only [parseUid, h, hn, stageBytes_recast]
  rfl

/-! The site table. -/

theorem siteRun_add (p : Params) (a b : Nat) (s : State) : siteRun p (a + b) s = siteRun p b (siteRun p a s) := by
  induction a generalizing s with
  | zero => simp [siteRun]
  | succ a ih => rw [Nat.succ_add]; exact ih _

/-- Site X7 starts the wait at read number 1 (R161). -/
theorem siteStep_x7_pollIndex (p : Params) (ph : Phase) (s : State) (h : s.site = .x7 ph) :
    pollIndex (siteStep p s) = 1 := by
  simp [siteStep, h, pollIndex, pollBudget]

/-- The sites I3[k], I3[k + 1], ... up to I4 are the rest of TMRCFG (R121). -/
theorem siteRun_timer (p : Params) (m k : Nat) (s : State) (h : k + m = p.timerProgram.length)
    (hs : s.site = timerSite p k) :
    siteRun p m s = { writeProgram (p.timerProgram.drop k) s with site := .i4 } := by
  induction m generalizing k s with
  | zero =>
    have hd : p.timerProgram.drop k = [] := by simp; omega
    rw [timerSite, if_neg (by omega)] at hs
    rw [hd]; simp [siteRun, writeProgram, ← hs]
  | succ m ih =>
    have hk : k < p.timerProgram.length := by omega
    simp only [timerSite, hk, if_true] at hs
    rw [siteRun, ih (k + 1) _ (by omega) (by simp [siteStep, hs]), List.drop_eq_getElem_cons hk]
    simp only [siteStep, hs, List.getElem?_eq_getElem hk, Option.toList, writeProgram, writeProgram_eq]
    rfl

/-- Sites X1 to X7 of a phase are its exchange (R143), after which the wait begins with the full budget. -/
theorem siteRun_exchange (p : Params) (ph : Phase) (s : State) (hs : s.site = .x1 ph) :
    siteRun p (6 + (cardCommand p ph).bytes.length) s =
      { sendCard p (cardCommand p ph) s with site := .p1 ph, budget := BitVec.ofNat 14 pollBudget } := by
  cases ph <;>
    simp [siteRun, siteStep, hs, cardCommand, wupCommand, selCommand, loadSite, sendCard, xchg, irqclr, loadCard,
      writeBlock, startSend, chipCommand, flush, irqRead, irqWrite, memWrite, transportWrite, memRead, transportRead,
      memReadByte_eq, readAnswer_eq, irqCleared]

/-- What site P1's last read leads to: the next exchange or the level read when a response came, else END with false. -/
def waitDone (ph : Phase) (x : Bool × State) : State :=
  { x.2 with site := if x.1 then foundSite ph else .opEnd (.bool false) (some .responseTimeout) }

/-- The sites P1[j] with BUDGET = k are the polling loop (R161). -/
theorem siteRun_poll (p : Params) (ph : Phase) (k : Nat) (s : State) (hk : k + 1 ≤ pollBudget) (hs : s.site = .p1 ph)
    (hb : s.budget = BitVec.ofNat 14 (k + 1)) :
    ∃ m, m ≤ k + 1 ∧ siteRun p m s = waitDone ph (pollLoop p (k + 1) s) := by
  induction k generalizing s with
  | zero =>
    refine ⟨1, le_rfl, ?_⟩
    have h1 : (pollRead p s).budget = s.budget := rfl
    by_cases hr : rxSeen p (pollRead p s).sReg
    · simp [siteRun, siteStep, hs, siteP1, pollLoop, hr, waitDone]
    · by_cases ht : timerSeen p (pollRead p s).sReg <;>
        simp [siteRun, siteStep, hs, siteP1, pollLoop, hr, ht, waitDone, rduidFailed, h1, hb]
  | succ k ih =>
    have h1 : (pollRead p s).budget = s.budget := rfl
    have h2 : s.budget - 1 = BitVec.ofNat 14 (k + 1) := by rw [hb]; apply BitVec.eq_of_toNat_eq; simp; omega
    have h3 : BitVec.ofNat 14 (k + 1) ≠ 0 := by
      intro h; have := congrArg BitVec.toNat h; simp [pollBudget] at this hk; omega
    by_cases hr : rxSeen p (pollRead p s).sReg
    · exact ⟨1, by omega, by simp [siteRun, siteStep, hs, siteP1, pollLoop, hr, waitDone]⟩
    · by_cases ht : timerSeen p (pollRead p s).sReg
      · exact ⟨1, by omega, by simp [siteRun, siteStep, hs, siteP1, pollLoop, hr, ht, waitDone, rduidFailed]⟩
      · obtain ⟨m, hm, h⟩ := ih { pollRead p s with budget := BitVec.ofNat 14 (k + 1), site := .p1 ph } (by omega) rfl rfl
        refine ⟨m + 1, by omega, ?_⟩
        have h4 : siteStep p s = { pollRead p s with budget := BitVec.ofNat 14 (k + 1), site := .p1 ph } := by
          simp only [siteStep, hs, siteP1, hr, ht, h1, h2, h3, if_false]; rfl
        have h5 : (pollRead p s).site = .p1 ph := hs
        rw [siteRun, h4, h, ← h5]
        rw [pollLoop.eq_2 p s (k + 1)]
        simp only [hr, ht]
        rfl

/-- The sites of a phase through its wait are the exchange and then POLL (R143, R161). -/
theorem siteRun_wait (p : Params) (ph : Phase) (s : State) (hs : s.site = .x1 ph) :
    ∃ m, m ≤ 6 + (cardCommand p ph).bytes.length + pollBudget ∧
      siteRun p m s = waitDone ph (poll p (sendCard p (cardCommand p ph) s)) := by
  let s1 := sendCard p (cardCommand p ph) s
  obtain ⟨m, hm, h⟩ := siteRun_poll p ph 9999
    { s1 with site := .p1 ph, budget := BitVec.ofNat 14 pollBudget } (by simp [pollBudget]) rfl rfl
  refine ⟨6 + (cardCommand p ph).bytes.length + m, by simp [pollBudget]; omega, ?_⟩
  have hr := pollLoop_recast p s.ds (.p1 ph) s.uid pollBudget { s1 with budget := BitVec.ofNat 14 pollBudget }
  have he : ({ s1 with site := .p1 ph, budget := BitVec.ofNat 14 pollBudget } : State) =
      State.recast s.ds (.p1 ph) s.uid { s1 with budget := BitVec.ofNat 14 pollBudget } := by
    simp only [s1, sendCard_eq]; rfl
  obtain ⟨d, vs, f, l, bu, re, dr, hq, -⟩ := exchange_waited p (cardCommand p ph) s
  have hq' : pollLoop p pollBudget { s1 with budget := BitVec.ofNat 14 pollBudget } = _ := hq
  have hb : 9999 + 1 = pollBudget := rfl
  rw [siteRun_add, siteRun_exchange _ _ _ hs, h, hb, he, hr, hq', hq]
  rfl

/-- Site P1 when the byte has neither flag and budget is left: the next read (R161). -/
theorem siteP1_again (p : Params) (ph : Phase) (s : State) (hr : ¬rxSeen p (memReadByte p.regComIrq s) = true)
    (ht : ¬timerSeen p (memReadByte p.regComIrq s) = true) (hb : ¬s.budget - 1 = 0) :
    siteP1 p ph s = { pollRead p s with budget := s.budget - 1, site := .p1 ph } := by
  have h1 : (pollRead p s).sReg = memReadByte p.regComIrq s := rfl
  have h2 : (pollRead p s).budget = s.budget := rfl
  simp only [siteP1, h1, h2, if_neg hr, if_neg ht, if_neg hb]

/-- Site U1 when the level is 0: EmptyResponse (R175). -/
theorem siteU1_zero (p : Params) (s : State) (h : (levelRead p s).lvl = 0) :
    siteU1 p s = rduidFailed .emptyResponse (levelRead p s) := by
  simp only [siteU1, if_pos h]

/-- Site U1 when the level is not 0: the clamp, then U2[0] (R173). -/
theorem siteU1_pos (p : Params) (s : State) (h : (levelRead p s).lvl ≠ 0) :
    siteU1 p s = { startParse (levelRead p s) with site := .u2 } := by
  simp only [siteU1, if_neg h]

/-! The sites reached stay sites of the table. -/

theorem siteLegal_at_timerSite (p : Params) (k : Nat) (s : State) (h : s.site = timerSite p k) :
    siteLegal p s = true := by
  simp only [timerSite] at h
  split at h <;> simp_all [siteLegal]

theorem siteLegal_at_loadSite (p : Params) (ph : Phase) (i : Nat) (s : State) (h : s.site = loadSite p ph i) :
    siteLegal p s = true := by
  simp only [loadSite] at h
  split at h <;> simp_all [siteLegal]

theorem siteLegal_siteP1 (p : Params) (ph : Phase) (s : State) (hl : 1 ≤ s.budget.toNat)
    (hu : s.budget.toNat ≤ pollBudget) : siteLegal p (siteP1 p ph s) = true := by
  have h1 : (pollRead p s).sReg = memReadByte p.regComIrq s := rfl
  have h2 : (pollRead p s).budget = s.budget := rfl
  by_cases hr : rxSeen p (memReadByte p.regComIrq s) = true
  · rw [siteP1, h1, if_pos hr]; cases ph <;> rfl
  · by_cases ht : timerSeen p (memReadByte p.regComIrq s) = true
    · rw [siteP1, h1, if_neg hr, if_pos ht]; rfl
    · by_cases hb : s.budget - 1 = 0
      · simp only [siteP1, h1, h2, if_neg hr, if_neg ht, if_pos hb]; rfl
      · rw [siteP1_again p ph s hr ht hb]
        have h0 : (s.budget - 1).toNat ≠ 0 := fun h => hb (BitVec.eq_of_toNat_eq h)
        have h3 : (s.budget - 1).toNat = s.budget.toNat - 1 := by bv_omega
        have h4 : 1 ≤ (s.budget - 1).toNat ∧ (s.budget - 1).toNat ≤ pollBudget := by omega
        simpa only [siteLegal, decide_eq_true_eq] using h4

theorem siteLegal_siteU1 (p : Params) (s : State) : siteLegal p (siteU1 p s) = true := by
  by_cases hz : (levelRead p s).lvl = 0
  · rw [siteU1_zero p s hz]; rfl
  · rw [siteU1_pos p s hz]
    have h0 : (levelRead p s).lvl.toNat ≠ 0 := fun h => hz (BitVec.eq_of_toNat_eq h)
    have h1 : (0 : BitVec 3).toNat < (clampLevel (levelRead p s).lvl).toNat ∧
        (clampLevel (levelRead p s).lvl).toNat ≤ uidSize := by
      rw [clampLevel_toNat]; simp only [uidSize]; exact ⟨by show 0 < _; omega, by omega⟩
    simp only [siteLegal, decide_eq_true_eq]; exact h1

theorem siteLegal_siteU2 (p : Params) (s : State) (h : s.n.toNat ≤ uidSize) : siteLegal p (siteU2 p s) = true := by
  simp only [siteU2]
  split
  · rename_i hi
    have h1 : (stageByte p s).idx.toNat < (stageByte p s).n.toNat ∧ (stageByte p s).n.toNat ≤ uidSize := ⟨hi, h⟩
    simpa only [siteLegal, decide_eq_true_eq] using h1
  · have h1 : (stageByte p s).n.toNat ≤ uidSize := h
    simpa only [siteLegal, decide_eq_true_eq] using h1

/-- From a site of the table the next site is one (R23). -/
theorem siteLegal_siteStep (p : Params) (s : State) (h : siteLegal p s = true) : siteLegal p (siteStep p s) = true := by
  cases hs : s.site <;> simp only [siteLegal, hs, decide_eq_true_eq] at h <;> simp only [siteStep, hs]
  case i1 => simp only [siteI1]; split <;> rfl
  case i2 => exact siteLegal_at_timerSite p 0 _ rfl
  case i3 k => exact siteLegal_at_timerSite p (k + 1) _ rfl
  case i5 => simp only [siteI5]; split <;> rfl
  case x4 ph => exact siteLegal_at_loadSite p ph 0 _ rfl
  case x5 ph i => exact siteLegal_at_loadSite p ph (i + 1) _ rfl
  case x7 ph =>
    have h1 : 1 ≤ (BitVec.ofNat 14 pollBudget).toNat ∧ (BitVec.ofNat 14 pollBudget).toNat ≤ pollBudget := by decide
    simpa only [siteLegal, decide_eq_true_eq] using h1
  case p1 ph => exact siteLegal_siteP1 p ph s h.1 h.2
  case u1 => exact siteLegal_siteU1 p s
  case u2 => exact siteLegal_siteU2 p s h.2
  case idle => simp only [siteLegal, hs]
  all_goals rfl

/-- The sites U2[i] to U3 are the FIFO reads (R174). -/
theorem siteRun_stage (p : Params) (k : Nat) (s : State) (hs : s.site = .u2) (hn : s.idx.toNat + k + 1 = s.n.toNat) :
    siteRun p (k + 1) s = { stageBytes p (k + 1) s with site := .u3 } := by
  induction k generalizing s with
  | zero =>
    have h1 : ¬ (s.idx + 1).toNat < s.n.toNat := by have := s.n.isLt; simp [BitVec.toNat_add]; omega
    have h2 : (stageByte p s).idx = s.idx + 1 := rfl
    have h3 : (stageByte p s).n = s.n := rfl
    simp only [siteRun, siteStep, hs, siteU2, stageBytes, h2, h3, h1, if_false]
  | succ k ih =>
    have h0 : (s.idx + 1).toNat = s.idx.toNat + 1 := by
      have := s.n.isLt; simp [BitVec.toNat_add]; omega
    have h1 : (s.idx + 1).toNat < s.n.toNat := by omega
    have h2 : (stageByte p s).idx = s.idx + 1 := rfl
    have h3 : (stageByte p s).n = s.n := rfl
    have h4 : siteStep p s = { stageByte p s with site := .u2 } := by
      simp only [siteStep, hs, siteU2, h2, h3, h1, if_true]
    have h5 : (stageByte p s).site = .u2 := hs
    rw [siteRun, h4, ih _ rfl (by simp only [h2, h3, h0]; omega), ← h5]
    rfl

end Sys2Proof.Machine
end

