-- ==== Sys2Proof/Laws/Exec.lean ====
section
/-! SUPPORT. When a host operation is admitted, and what exec then answers; what one step is in each of its cases. -/

namespace Sys2Proof.Machine

theorem hostGate_busy {p : Params} {b : Bool} {s : State} (h : s.site ≠ .idle) : hostGate p b s = some .busy := by
  simp [hostGate, h]

/-- INIT has a meaning in every value of DS (R22). -/
theorem hostGate_init {s : State} (h : s.site = .idle) : hostGate s.params false s = none := by
  simp [hostGate, h]

/-- RESET and RDUID have theirs when DS is `Configured`, or under policy `ungated` (R22). -/
theorem hostGate_admitted {s : State} (h : s.site = .idle) (hc : s.ds = .configured ∨ s.params.policy = .ungated) :
    hostGate s.params true s = none := by
  rcases hc with hc | hc <;> simp [hostGate, h, hc]

theorem hostGate_unconfigured {s : State} (h : s.site = .idle) (hd : s.ds ≠ .configured)
    (hp : s.params.policy = .refuse) : hostGate s.params true s = some .unconfigured := by
  simp [hostGate, h, hd, hp]

theorem exec_init_of_idle {s : State} (h : s.site = .idle) : exec .init s = .next (initProc s.params s) := by
  simp only [exec, execInit, hostGate_init h]

theorem exec_reset_of_admitted {s : State} (h : s.site = .idle)
    (hc : s.ds = .configured ∨ s.params.policy = .ungated) : exec .reset s = .next (resetProc s.params s) := by
  simp only [exec, execReset, hostGate_admitted h hc]

theorem exec_rduid_of_admitted {s : State} (h : s.site = .idle)
    (hc : s.ds = .configured ∨ s.params.policy = .ungated) :
    exec .rduid s = .next (deliverBool (rduid s.params s)) := by
  simp only [exec, execRduid, hostGate_admitted h hc]

/-- A host operation that answers a next state was admitted. -/
theorem admitted_of_next {s t : State} {f : State → State}
    (h : (match hostGate s.params true s with
      | some r => Host.Outcome.refused r
      | none => Host.Outcome.next (φ := Fault) (f s)) = .next t) :
    s.site = .idle ∧ (s.ds = .configured ∨ s.params.policy = .ungated) ∧ t = f s := by
  by_cases hi : s.site = .idle
  · by_cases hd : s.ds = .configured
    · rw [hostGate_admitted hi (.inl hd)] at h
      exact ⟨hi, .inl hd, (Host.Outcome.next.inj h).symm⟩
    · cases hp : s.params.policy with
      | refuse => rw [hostGate_unconfigured hi hd hp] at h; cases h
      | ungated =>
        rw [hostGate_admitted hi (.inr hp)] at h
        exact ⟨hi, .inr rfl, (Host.Outcome.next.inj h).symm⟩
  · rw [hostGate_busy hi] at h; cases h

/-- One step, case by case: a request run, refused, an operation started, the host's write, the port showing `00`, or one
site. -/
theorem step_cases {s t : State} (h : step s = .next t) :
    (s.site = .idle ∧ s.host = [] ∧ t = s) ∨
    (∃ r rest i, s.site = .idle ∧ s.host = .call r :: rest ∧ decode r = .instr i ∧
      exec i { s with host := rest } = .next t) ∨
    (∃ op rest, s.site = .idle ∧ s.host = .start op :: rest ∧ enterOperation s.params op { s with host := rest } = .next t) ∨
    (∃ i v rest, s.site = .idle ∧ s.host = .writeUid i v :: rest ∧ t = writeUid i v { s with host := rest }) ∨
    (s.site ≠ .idle ∧ siteLegal s.params s = true ∧ t = siteStep s.params s) := by
  by_cases hi : s.site = .idle
  · rw [step, if_pos hi, idleStep] at h
    cases hh : s.host with
    | nil =>
      rw [hh] at h
      exact .inl ⟨hi, rfl, (Host.Outcome.next.inj h).symm⟩
    | cons m rest =>
      rw [hh] at h
      cases m with
      | call r =>
        cases hd : decode r with
        | instr i => simp only [hd, runDecoded] at h; exact .inr (.inl ⟨r, rest, i, hi, rfl, hd, h⟩)
        | rejected e => simp only [hd, runDecoded] at h; cases h
      | start op => exact .inr (.inr (.inl ⟨op, rest, hi, rfl, h⟩))
      | writeUid i v => exact .inr (.inr (.inr (.inl ⟨i, v, rest, hi, rfl, (Host.Outcome.next.inj h).symm⟩)))
  · rw [step, if_neg hi, advance] at h
    split at h
    · exact .inr (.inr (.inr (.inr ⟨hi, ‹_›, (Host.Outcome.next.inj h).symm⟩)))
    · cases h

/-! A run and its parameters. -/

@[simp] theorem Run.under_params (p : Params) (r : Run) : (r.under p).params = p := rfl
@[simp] theorem Run.under_toRun (p : Params) (r : Run) : (r.under p).toRun = r := rfl

/-- A state is its run under its parameters. -/
@[simp] theorem State.toRun_under (s : State) : s.toRun.under s.params = s := rfl

theorem mapNext_eq_next {σ τ φ ρ : Type} {f : σ → τ} {o : Host.Outcome σ φ ρ} {t : τ} :
    mapNext f o = .next t ↔ ∃ s, o = .next s ∧ f s = t := by
  cases o <;> simp [mapNext]

end Sys2Proof.Machine
end

