-- ==== Sys2Proof/Laws/PerInstr.lean ====
section
/-! SUPPORT. The statement made per instruction: which port an instruction's request goes to and how wide it is there, as
spec/opcode_table.json lists it, and which instructions have "no encoding of [their] own" (spec/30_encoding.md R88, R89,
R94, R95). -/

namespace Sys2Proof.Laws

/-- The form column of the opcode table. -/
inductive RowForm where
  /-- a host operation, 2 bits (R85) -/
  | hostOp
  /-- a wire frame, 16 bits (R83, R84) -/
  | wireFrame
  /-- a transport request kind, 2 bits (R51) -/
  | transportKind
  /-- a pseudo-instruction or a data constant, no encoding of its own -/
  | noEncoding
deriving DecidableEq, Repr

/-- The form and the width in bits of an encoded request; `none` where there is no request. -/
def requestForm : Option Request → RowForm × Nat
  | some (.host _) => (.hostOp, 2)
  | some (.frame bytes) => (.wireFrame, 8 * bytes.length)
  | some (.transport _ _ _ _) => (.transportKind, 2)
  | none => (.noEncoding, 0)

/-- The row of an instruction in the opcode table: its form and its width in bits. -/
def rowForm : Instr → RowForm × Nat
  | .nop | .init | .reset | .rduid => (.hostOp, 2)
  | .wrreg _ _ | .rdreg _ => (.wireFrame, 16)
  | .noRequest | .tinit | .twrite _ _ | .tread _ => (.transportKind, 2)
  | .tmrcfg | .askcfg | .anton | .irqclr | .flush | .xchg _ _ | .detect | .poll | .uidrd | .cmdIdle | .cmdTransceive
  | .cmdSoftreset | .wup | .sel => (.noEncoding, 0)

/-- The encoder sends an instruction to the port of its row, at the row's width. -/
def EncodingForm.Statement (i : Instr) : Prop :=
  requestForm (encode i) = rowForm i

theorem EncodingForm.nop : EncodingForm.Statement .nop :=
  rfl

theorem EncodingForm.init : EncodingForm.Statement .init :=
  rfl

theorem EncodingForm.reset : EncodingForm.Statement .reset :=
  rfl

theorem EncodingForm.rduid : EncodingForm.Statement .rduid :=
  rfl

theorem EncodingForm.wrreg (code : Code) (value : Byte) : EncodingForm.Statement (.wrreg code value) :=
  rfl

theorem EncodingForm.rdreg (code : Code) : EncodingForm.Statement (.rdreg code) :=
  rfl

theorem EncodingForm.noRequest : EncodingForm.Statement .noRequest :=
  rfl

theorem EncodingForm.tinit : EncodingForm.Statement .tinit :=
  rfl

theorem EncodingForm.twrite (address data : Byte) : EncodingForm.Statement (.twrite address data) :=
  rfl

theorem EncodingForm.tread (address : Byte) : EncodingForm.Statement (.tread address) :=
  rfl

theorem EncodingForm.tmrcfg : EncodingForm.Statement .tmrcfg :=
  rfl

theorem EncodingForm.askcfg : EncodingForm.Statement .askcfg :=
  rfl

theorem EncodingForm.anton : EncodingForm.Statement .anton :=
  rfl

theorem EncodingForm.irqclr : EncodingForm.Statement .irqclr :=
  rfl

theorem EncodingForm.flush : EncodingForm.Statement .flush :=
  rfl

theorem EncodingForm.xchg (cmd : List Byte) (framing : Byte) : EncodingForm.Statement (.xchg cmd framing) :=
  rfl

theorem EncodingForm.detect : EncodingForm.Statement .detect :=
  rfl

theorem EncodingForm.poll : EncodingForm.Statement .poll :=
  rfl

theorem EncodingForm.uidrd : EncodingForm.Statement .uidrd :=
  rfl

theorem EncodingForm.cmdIdle : EncodingForm.Statement .cmdIdle :=
  rfl

theorem EncodingForm.cmdTransceive : EncodingForm.Statement .cmdTransceive :=
  rfl

theorem EncodingForm.cmdSoftreset : EncodingForm.Statement .cmdSoftreset :=
  rfl

theorem EncodingForm.wup : EncodingForm.Statement .wup :=
  rfl

theorem EncodingForm.sel : EncodingForm.Statement .sel :=
  rfl

end Sys2Proof.Laws
end

