-- ==== Sys2Proof/Laws/Trace.lean ====
section
/-! SUPPORT. Replaying a trace (spec/30_encoding.md R96): a site answered as an event says makes that event and goes where
the site that made it went, whatever the dead registers and the environment hold. -/

namespace Sys2Proof.Machine

/-- The same position in an operation's sequence: the same SITE, and the registers that site reads before writing them
(R24). -/
def SamePosition (s t : State) : Prop :=
  t.site = s.site ∧
    (s.site = .i6 ∨ (∃ ph, s.site = .x3 ph) → t.tmp = s.tmp) ∧
    ((∃ ph, s.site = .p1 ph) → t.budget = s.budget) ∧
    (s.site = .u2 → t.idx = s.idx ∧ t.n = s.n)

theorem SamePosition.refl (s : State) : SamePosition s s :=
  ⟨rfl, fun _ => rfl, fun _ => rfl, fun _ => ⟨rfl, rfl⟩⟩

@[simp] theorem answering_site (e : BusEvent) (s : State) : (answering e s).site = s.site := by cases e <;> rfl
@[simp] theorem answering_tmp (e : BusEvent) (s : State) : (answering e s).tmp = s.tmp := by cases e <;> rfl
@[simp] theorem answering_budget (e : BusEvent) (s : State) : (answering e s).budget = s.budget := by cases e <;> rfl
@[simp] theorem answering_n (e : BusEvent) (s : State) : (answering e s).n = s.n := by cases e <;> rfl
@[simp] theorem answering_idx (e : BusEvent) (s : State) : (answering e s).idx = s.idx := by cases e <;> rfl

@[simp] theorem initAnswer_answering (ok : Bool) (s : State) : initAnswer (answering (.ti ok) s) = ok := rfl

@[simp] theorem memReadByte_answering (c : Code) (d : Byte) (s : State) :
    memReadByte c (answering (.r (readAddr c) d) s) = d := by
  simp [memReadByte, readAnswer, answering, scriptFind]

/-- A site that reads no working register before writing it. -/
def readsNothing : Site → Bool
  | .i6 | .x3 _ | .p1 _ | .u2 => false
  | .idle | .i1 | .i2 | .i3 _ | .i4 | .i5 | .s1 | .x1 _ | .x2 _ | .x4 _ | .x5 _ _ | .x6 _ | .x7 _ | .u1 | .u3
  | .opEnd _ _ => true

theorem SamePosition.of_readsNothing {s t : State} {x : Site} (hs : s.site = x) (ht : t.site = x)
    (hx : readsNothing x = true) : SamePosition s t := by
  refine ⟨ht.trans hs.symm, fun h => ?_, fun h => ?_, fun h => ?_⟩ <;>
    rw [hs] at h <;> cases x <;> simp_all [readsNothing]

theorem readsNothing_timerSite (p : Params) (k : Nat) : readsNothing (timerSite p k) = true := by
  simp only [timerSite]; split <;> rfl

theorem readsNothing_loadSite (p : Params) (ph : Phase) (i : Nat) : readsNothing (loadSite p ph i) = true := by
  simp only [loadSite]; split <;> rfl

theorem readsNothing_foundSite (ph : Phase) : readsNothing (foundSite ph) = true := by
  cases ph <;> rfl

/-- A site replayed with its event makes that event and keeps the position (R96). -/
theorem siteStep_replay {p : Params} {s t : State} {e : BusEvent} (h : SamePosition s t)
    (he : siteEvent p s = some e) :
    siteEvent p (answering e t) = some e ∧ SamePosition (siteStep p s) (siteStep p (answering e t)) := by
  obtain ⟨h1, h2, h3, h4⟩ := h
  cases hs : s.site <;> simp only [hs] at h1 h2 h3 h4 <;> simp only [siteEvent, hs] at he <;> try cases he
  case i1 =>
    refine ⟨by simp [siteEvent, h1], ?_⟩
    by_cases ha : initAnswer s
    · exact .of_readsNothing (x := .i2) (by simp [siteStep, hs, siteI1, ha]) (by simp [siteStep, h1, siteI1, ha]) rfl
    · exact .of_readsNothing (x := .opEnd (.status .error) (some .transportSetupError))
        (by simp [siteStep, hs, siteI1, ha]) (by simp [siteStep, h1, siteI1, ha]) rfl
  case i2 =>
    exact ⟨by simp [siteEvent, h1], .of_readsNothing (by simp only [siteStep, hs])
      (by simp only [siteStep, answering, h1]) (readsNothing_timerSite p 0)⟩
  case i3 k =>
    obtain ⟨x, hx, rfl⟩ := Option.map_eq_some_iff.mp he
    exact ⟨by simp [siteEvent, h1, hx], .of_readsNothing (by simp only [siteStep, hs])
      (by simp only [siteStep, answering, h1]) (readsNothing_timerSite p (k + 1))⟩
  case i5 =>
    refine ⟨by simp [siteEvent, h1], ?_⟩
    have ha : ∀ x, (antonRead p x).tmp = memReadByte p.regTxControl x := fun _ => rfl
    by_cases hd : driverClear p (memReadByte p.regTxControl s)
    · refine ⟨by simp [siteStep, hs, h1, siteI5, ha, hd], fun _ => ?_, ?_, ?_⟩ <;>
        simp [siteStep, hs, h1, siteI5, ha, hd]
    · exact .of_readsNothing (x := .opEnd (.status .ok) none) (by simp [siteStep, hs, siteI5, ha, hd, initDone])
        (by simp [siteStep, h1, siteI5, ha, hd, initDone]) rfl
  case i6 =>
    have ht := h2 (by simp)
    exact ⟨by simp [siteEvent, h1, ht], .of_readsNothing (x := .opEnd (.status .ok) none)
      (by simp only [siteStep, hs, initDone]) (by simp only [siteStep, answering, h1, initDone]) rfl⟩
  case x2 ph =>
    refine ⟨by simp [siteEvent, h1], by simp [siteStep, hs, h1], fun _ => ?_, ?_, ?_⟩
    · simp only [siteStep, hs, answering_site, h1]
      exact memReadByte_answering _ _ t
    · simp [siteStep, hs]
    · simp [siteStep, hs]
  case x3 ph =>
    have ht := h2 (.inr ⟨ph, rfl⟩)
    exact ⟨by simp [siteEvent, h1, ht], .of_readsNothing (x := .x4 ph) (by simp only [siteStep, hs])
      (by simp only [siteStep, answering, h1]) rfl⟩
  case x4 ph =>
    exact ⟨by simp [siteEvent, h1], .of_readsNothing (by simp only [siteStep, hs])
      (by simp only [siteStep, answering, h1]) (readsNothing_loadSite p ph 0)⟩
  case x5 ph i =>
    obtain ⟨x, hx, rfl⟩ := Option.map_eq_some_iff.mp he
    exact ⟨by simp [siteEvent, h1, hx], .of_readsNothing (by simp only [siteStep, hs])
      (by simp only [siteStep, answering, h1]) (readsNothing_loadSite p ph (i + 1))⟩
  case x7 ph =>
    refine ⟨by simp [siteEvent, h1], by simp [siteStep, hs, h1], ?_, ?_, ?_⟩ <;> simp [siteStep, hs, h1]
  case p1 ph =>
    have ht := h3 ⟨ph, rfl⟩
    refine ⟨by simp [siteEvent, h1], ?_⟩
    have ha : ∀ x, (pollRead p x).sReg = memReadByte p.regComIrq x := fun _ => rfl
    have hb : ∀ x, (pollRead p x).budget = x.budget := fun _ => rfl
    by_cases hr : rxSeen p (memReadByte p.regComIrq s)
    · exact .of_readsNothing (by simp [siteStep, hs, siteP1, ha, hr])
        (by simp [siteStep, h1, siteP1, ha, hr]) (readsNothing_foundSite ph)
    · by_cases hx : timerSeen p (memReadByte p.regComIrq s) = true ∨ s.budget - 1 = 0
      · refine .of_readsNothing (x := .opEnd (.bool false) (some .responseTimeout)) ?_ ?_ rfl
        · rcases hx with hx | hx <;> by_cases hy : timerSeen p (memReadByte p.regComIrq s) <;>
            simp_all [siteStep, siteP1, rduidFailed]
        · rcases hx with hx | hx <;> by_cases hy : timerSeen p (memReadByte p.regComIrq s) <;>
            simp_all [siteStep, siteP1, rduidFailed]
      · obtain ⟨hx, hy⟩ := not_or.mp hx
        have e1 : siteStep p s = { pollRead p s with budget := s.budget - 1, site := .p1 ph } := by
          simp only [siteStep, hs]; exact siteP1_again _ _ _ hr hx hy
        have e2 : siteStep p (answering (.r (readAddr p.regComIrq) (memReadByte p.regComIrq s)) t) =
            { pollRead p (answering (.r (readAddr p.regComIrq) (memReadByte p.regComIrq s)) t) with
              budget := t.budget - 1, site := .p1 ph } := by
          simp only [siteStep, answering_site, h1]
          exact siteP1_again _ _ _ (by rw [memReadByte_answering]; exact hr) (by rw [memReadByte_answering]; exact hx)
            (by rw [answering_budget, ht]; exact hy)
        rw [e1, e2]
        exact ⟨rfl, by simp, fun _ => by simp only [ht], by simp⟩
  case u1 =>
    refine ⟨by simp [siteEvent, h1], ?_⟩
    have ha : ∀ x, (levelRead p x).lvl = memReadByte p.regFifoLevel x := fun _ => rfl
    by_cases hz : memReadByte p.regFifoLevel s = 0
    · exact .of_readsNothing (x := .opEnd (.bool false) (some .emptyResponse))
        (by simp only [siteStep, hs]; rw [siteU1_zero _ _ (by rw [ha, hz])]; rfl)
        (by simp only [siteStep, answering_site, h1]
            rw [siteU1_zero _ _ (by rw [ha, memReadByte_answering, hz])]; rfl) rfl
    · have e1 : siteStep p s = { startParse (levelRead p s) with site := .u2 } := by
        simp only [siteStep, hs]; exact siteU1_pos _ _ (by rw [ha]; exact hz)
      have e2 : siteStep p (answering (.r (readAddr p.regFifoLevel) (memReadByte p.regFifoLevel s)) t) =
          { startParse (levelRead p (answering (.r (readAddr p.regFifoLevel) (memReadByte p.regFifoLevel s)) t)) with
            site := .u2 } := by
        simp only [siteStep, answering_site, h1]
        exact siteU1_pos _ _ (by rw [ha, memReadByte_answering]; exact hz)
      rw [e1, e2]
      refine ⟨rfl, by simp, by simp, fun _ => ⟨rfl, ?_⟩⟩
      simp only [startParse, ha, memReadByte_answering]
  case u2 =>
    obtain ⟨hi, hn⟩ := h4 (by simp)
    refine ⟨by simp [siteEvent, h1], ?_⟩
    have e : ∀ x, (stageByte p x).idx = x.idx + 1 ∧ (stageByte p x).n = x.n := fun _ => ⟨rfl, rfl⟩
    refine ⟨?_, ?_, ?_, fun _ => ?_⟩ <;> simp [siteStep, hs, h1, siteU2, e, hi, hn]
    all_goals split <;> simp
  case i4 =>
    exact ⟨by simp [siteEvent, h1], .of_readsNothing (x := .i5) (by simp only [siteStep, hs])
      (by simp only [siteStep, answering, h1]) rfl⟩
  case s1 =>
    exact ⟨by simp [siteEvent, h1], .of_readsNothing (x := .opEnd .nothing none) (by simp only [siteStep, hs])
      (by simp only [siteStep, answering, h1]) rfl⟩
  case x1 ph =>
    exact ⟨by simp [siteEvent, h1], .of_readsNothing (x := .x2 ph) (by simp only [siteStep, hs])
      (by simp only [siteStep, answering, h1]) rfl⟩
  case x6 ph =>
    exact ⟨by simp [siteEvent, h1], .of_readsNothing (x := .x7 ph) (by simp only [siteStep, hs])
      (by simp only [siteStep, answering, h1]) rfl⟩

end Sys2Proof.Machine
end

