-- ==== Sys2Proof/Tests/Slice0.lean ====
section
/-! SUPPORT. Tests. Expected results are those of spec/95_test_vectors.md (the vector is named in each docstring) or
written out from the encodings of spec/30_encoding.md and spec/20_memory.md. After them, for every statement with
hypotheses, a state and operands that meet them. -/

namespace Sys2Proof.Tests

open Sys2Proof.Machine

/-! ## Helpers -/

/-- The state after reset, `Configured` and with a script of answers. -/
def scripted (inits : List Bool) (reads : List (Byte × Byte)) : State :=
  { State.reset with ds := .configured, envInits := inits, envReads := reads }

/-- The state after reset with another parameter set. -/
def withParams (p : Params) : State :=
  State.resetWith p

/-- The state after reset at another site. -/
def atSite (x : Site) : State :=
  { State.reset with site := x }

/-- The state after reset with one move of the host. -/
def moving (m : HostMove) : State :=
  { State.reset with host := [m] }

/-- What a host sees of an outcome: the trace and the value returned; none for a refusal. -/
def seen : Host.Outcome State Fault Refusal → Option (List BusEvent × Ret)
  | .next s => some (s.busTrace, s.ret)
  | .fault _ => none
  | .refused _ => none

/-- The state after, where there is one. -/
def after : Host.Outcome State Fault Refusal → Option State
  | .next s => some s
  | .fault _ => none
  | .refused _ => none

/-- Why a step was refused. -/
def whyNot : Host.Outcome State Fault Refusal → Option Refusal
  | .next _ => none
  | .fault _ => none
  | .refused r => some r

/-- An arbitrary parameter set of 95_test_vectors.md V16, P-ALT. -/
def profileAlt : Params where
  regCommand := 0x3F#6
  regComIrq := 0x20#6
  regFifoData := 0x00#6
  regFifoLevel := 0x1F#6
  regBitFraming := 0x2A#6
  regTxControl := 0x15#6
  regTxAsk := 0x01#6
  timerProgram := [(0x10#6, 0x11#8), (0x11#6, 0x22#8)]
  cmdIdle := 0x10#8
  cmdTransceive := 0x1C#8
  cmdSoftreset := 0x1F#8
  irqSet := 0x01#8
  irqRx := 0x04#8
  irqTimer := 0x40#8
  fifoFlush := 0x01#8
  bfShort7 := 0x71#8
  bfFull8 := 0x01#8
  txEn := 0xC0#8
  askValue := 0x02#8
  wupByte := 0x26#8
  selCl1 := 0x93#8
  selNvb := 0x20#8
  policy := .refuse

/-! ## The checks of WellFormed refuse what they should -/

/-- R92 (a): a write address has bit 0 and bit 7 clear. -/
theorem test_wf_twrite : Instr.wf (.twrite 0x13#8 0#8) = false ∧ Instr.wf (.twrite 0x92#8 0#8) = false ∧
    Instr.wf (.twrite 0x12#8 0#8) = true := by decide

/-- R92 (a): a read address has bit 0 clear and bit 7 set. -/
theorem test_wf_tread : Instr.wf (.tread 0x93#8) = false ∧ Instr.wf (.tread 0x12#8) = false ∧
    Instr.wf (.tread 0x92#8) = true := by decide

/-- R5, R89: the lengths and significant bits of the two card commands are the named constants. -/
theorem test_card_lengths : (wupCommand profileAlt).bytes.length = wupLen ∧
    (wupCommand profileAlt).sigBits = wupBits ∧ (selCommand profileAlt).bytes.length = selLen := by decide

/-- R143: a card command has 1 or 2 bytes. -/
theorem test_wf_xchg : Instr.wf (.xchg [] 0#8) = false ∧ Instr.wf (.xchg [0#8, 0#8, 0#8] 0#8) = false ∧
    Instr.wf (.xchg [0x52#8] 0x87#8) = true ∧ Instr.wf (.xchg [0x93#8, 0x20#8] 0x80#8) = true := by decide

/-- R58: two equal codes. -/
theorem test_wf_codes : Params.codesDistinct { profilePGK with regTxAsk := 0x14#6 } = false := by decide

/-- R91: a mask of two bits, and two equal masks. -/
theorem test_wf_masks : Params.masksOk { profilePGK with irqRx := 0x60#8 } = false ∧
    Params.masksOk { profilePGK with irqTimer := 0x20#8 } = false := by decide

/-- R91: TX_EN of one bit. -/
theorem test_wf_drivers : Params.driversOk { profilePGK with txEn := 0x01#8 } = false := by decide

/-- R6: a wake-up byte with bit 7 set. -/
theorem test_wf_wakeUp : Params.wakeUpOk { profilePGK with wupByte := 0xD2#8 } = false := by decide

/-- R7, V16: both profiles are admitted. -/
theorem test_wf_profiles : profilePGK.wf = true ∧ profileAlt.wf = true := by decide

/-! ## Decoding, from words written out from the encodings -/

/-- R85: the host codes 00, 01, 10, 11. -/
theorem test_decode_host : decode (.host 0b00#2) = .instr .nop ∧ decode (.host 0b01#2) = .instr .init ∧
    decode (.host 0b10#2) = .instr .reset ∧ decode (.host 0b11#2) = .instr .rduid := by decide

/-- R83: `0cccccc0 dddddddd`, code 001001, data 01010010 (V1, V3). -/
theorem test_decode_wrreg : decode (.frame [0b00010010#8, 0b01010010#8]) = .instr (.wrreg 0b001001#6 0b01010010#8) := by
  decide

/-- R84: `1cccccc0 00000000`, code 111111 (V1). -/
theorem test_decode_rdreg : decode (.frame [0b11111110#8, 0b00000000#8]) = .instr (.rdreg 0b111111#6) := by decide

/-- R51: the request kinds 00, 01, 10, 11. -/
theorem test_decode_transport : decode (.transport 0b00#2 0#8 0#8 1) = .instr .noRequest ∧
    decode (.transport 0b01#2 0#8 0#8 1) = .instr .tinit ∧
    decode (.transport 0b10#2 0b00000010#8 0b00001111#8 1) = .instr (.twrite 0b00000010#8 0b00001111#8) ∧
    decode (.transport 0b11#2 0b10001000#8 0#8 1) = .instr (.tread 0b10001000#8) := by decide

/-- R92 (c): `size` other than 1, on a TINIT, a TWRITE and a TREAD. -/
theorem test_decode_size : decode (.transport 1#2 0#8 0#8 5) = .rejected .sizeNotOne ∧
    decode (.transport 2#2 0x12#8 0#8 0) = .rejected .sizeNotOne ∧
    decode (.transport 3#2 0x92#8 0#8 2) = .rejected .sizeNotOne := by decide

/-- V2: address bytes 0x93 and 0x01 are never produced. -/
theorem test_decode_bitZero : decode (.frame [0x93#8, 0#8]) = .rejected .addressBitZeroSet ∧
    decode (.frame [0x01#8, 0#8]) = .rejected .addressBitZeroSet := by decide

/-- V1: the address bytes of the lowest and the highest code. -/
theorem test_wireBytes : writeAddr 0#6 = 0x00#8 ∧ readAddr 0#6 = 0x80#8 ∧ writeAddr 0x3F#6 = 0x7E#8 ∧
    readAddr 0x3F#6 = 0xFE#8 ∧ writeAddr 0x2A#6 = 0x54#8 ∧ readAddr 0x2A#6 = 0xD4#8 := by decide

/-- The opcode table's words: a frame's address byte is in bits 15:8. -/
theorem test_decodeTableWord : decodeTableWord 8 1 = some .init ∧ decodeTableWord 2 3 = some .rduid ∧
    decodeTableWord 16 0x020F = some (.wrreg 0x01#6 0x0F#8) ∧ decodeTableWord 16 0x8800 = some (.rdreg 0x04#6) ∧
    decodeTableWord 16 0x8801 = none ∧ decodeTableWord 8 0x80 = none := by decide

/-- step runs the word placed before it: INIT, whose T.init answers false. -/
theorem test_withFetchWord : seen (step (State.withFetchWord { State.reset with envInits := [false] } 8 1)) =
    some ([.ti false], .status .error) := by decide

/-! ## Register access and transport -/

/-- V3. -/
theorem test_wrreg : seen (exec (.wrreg 0x01#6 0x0F#8) State.reset) = some ([.w 0x02#8 0x0F#8], .nothing) ∧
    seen (exec (.wrreg 0x00#6 0xFF#8) State.reset) = some ([.w 0x00#8 0xFF#8], .nothing) := by decide

/-- V3. -/
theorem test_rdreg : seen (exec (.rdreg 0x04#6) (scripted [] [(0x94#8, 0x07#8), (0x88#8, 0x21#8)])) =
    some ([.r 0x88#8 0x21#8], .byte 0x21#8) := by decide

/-- V3: each address has its own queue, in order. -/
theorem test_rdreg_queue : (after (exec (.rdreg 0x09#6) (scripted [] [(0x92#8, 0x04#8), (0x94#8, 0#8), (0x92#8, 0x3A#8)]))).map
    (fun t => t.envReads) = some [(0x94#8, 0#8), (0x92#8, 0x3A#8)] := by decide

/-- R51: no request. -/
theorem test_noRequest : seen (exec .noRequest State.reset) = some ([], .nothing) := by decide

/-- R52. -/
theorem test_tinit : seen (exec .tinit (scripted [false, true] [])) = some ([.ti false], .bool false) ∧
    seen (exec .tinit (scripted [true] [])) = some ([.ti true], .bool true) := by decide

/-- R53. -/
theorem test_twrite : seen (exec (.twrite 0x12#8 0x52#8) State.reset) = some ([.w 0x12#8 0x52#8], .nothing) := by decide

/-- R54. -/
theorem test_tread : seen (exec (.tread 0x88#8) (scripted [] [(0x88#8, 0x20#8)])) =
    some ([.r 0x88#8 0x20#8], .byte 0x20#8) := by decide

/-! ## Initialisation and reset -/

/-- V13. -/
theorem test_nop : exec .nop (atSite .i4) = .next (atSite .i4) := by rfl

/-- V6. -/
theorem test_tmrcfg : seen (exec .tmrcfg State.reset) =
    some ([.w 0x54#8 0x80#8, .w 0x56#8 0xA9#8, .w 0x58#8 0x00#8, .w 0x5A#8 0x13#8], .nothing) := by decide

/-- V6: an empty program, and the same code twice. -/
theorem test_tmrcfg_other : seen (exec .tmrcfg (withParams { profilePGK with timerProgram := [] })) = some ([], .nothing) ∧
    seen (exec .tmrcfg (withParams { profilePGK with timerProgram := [(0x2D#6, 0x13#8), (0x2D#6, 0x14#8)] })) =
      some ([.w 0x5A#8 0x13#8, .w 0x5A#8 0x14#8], .nothing) := by decide

/-- V6. -/
theorem test_askcfg : seen (exec .askcfg State.reset) = some ([.w 0x2A#8 0x40#8], .nothing) := by decide

/-- V4: both bits set, one clear. -/
theorem test_anton : seen (exec .anton (scripted [] [(0xA8#8, 0x83#8)])) = some ([.r 0xA8#8 0x83#8], .nothing) ∧
    seen (exec .anton (scripted [] [(0xA8#8, 0xFE#8)])) = some ([.r 0xA8#8 0xFE#8, .w 0x28#8 0xFF#8], .nothing) := by
  decide

/-- V4, TX_EN = 0xC0. -/
theorem test_anton_other : seen (exec .anton { withParams { profilePGK with txEn := 0xC0#8 } with
    envReads := [(0xA8#8, 0x41#8)] }) = some ([.r 0xA8#8 0x41#8, .w 0x28#8 0xC1#8], .nothing) := by decide

/-- V11: success with the antenna off. -/
theorem test_init : seen (exec .init { State.reset with envInits := [true], envReads := [(0xA8#8, 0x80#8)] }) =
    some ([.ti true, .w 0x02#8 0x0F#8, .w 0x54#8 0x80#8, .w 0x56#8 0xA9#8, .w 0x58#8 0x00#8, .w 0x5A#8 0x13#8,
      .w 0x2A#8 0x40#8, .r 0xA8#8 0x80#8, .w 0x28#8 0x83#8], .status .ok) := by decide

/-- V11: DS after a failing INIT and after a successful one. -/
theorem test_init_ds : (after (exec .init (scripted [false] []))).map (fun t => t.ds) = some .configured ∧
    (after (exec .init { State.reset with envInits := [false] })).map (fun t => t.ds) = some .uninitialized ∧
    (after (exec .init { State.reset with envInits := [true] })).map (fun t => t.ds) = some .configured := by decide

/-- V12. -/
theorem test_reset : seen (exec .reset (scripted [] [])) = some ([.w 0x02#8 0x0F#8], .nothing) ∧
    whyNot (exec .reset State.reset) = some .unconfigured := by decide

/-- V12: policy `ungated`. -/
theorem test_reset_ungated : (after (exec .reset (withParams { profilePGK with policy := .ungated }))).map
    (fun t => (t.ds, t.busTrace)) = some (.uninitialized, [.w 0x02#8 0x0F#8]) := by decide

/-! ## The exchange and the polling wait -/

/-- V5. -/
theorem test_irqclr : seen (exec .irqclr (scripted [] [(0x88#8, 0xA5#8)])) =
    some ([.r 0x88#8 0xA5#8, .w 0x08#8 0x25#8], .nothing) := by decide

/-- V6. -/
theorem test_flush : seen (exec .flush State.reset) = some ([.w 0x14#8 0x80#8], .nothing) := by decide

/-- V7. -/
theorem test_xchg : seen (exec (.xchg [0x93#8, 0x20#8] 0x80#8) (scripted [] [(0x88#8, 0xA4#8)])) =
    some ([.w 0x02#8 0x00#8, .r 0x88#8 0xA4#8, .w 0x08#8 0x24#8, .w 0x14#8 0x80#8, .w 0x12#8 0x93#8, .w 0x12#8 0x20#8,
      .w 0x02#8 0x0C#8, .w 0x1A#8 0x80#8], .nothing) := by decide

/-- E5, scenario A. -/
theorem test_detect : seen (exec .detect (scripted [] [(0x88#8, 0x00#8), (0x88#8, 0x20#8)])) =
    some ([.w 0x02#8 0x00#8, .r 0x88#8 0x00#8, .w 0x08#8 0x00#8, .w 0x14#8 0x80#8, .w 0x12#8 0x52#8, .w 0x02#8 0x0C#8,
      .w 0x1A#8 0x87#8, .r 0x88#8 0x20#8], .bool true) := by decide

/-- E6, scenario B: the timer on the first poll; BUDGET is still 10,000. -/
theorem test_detect_timer : (after (exec .detect (scripted [] [(0x88#8, 0x01#8), (0x88#8, 0x01#8)]))).map
    (fun t => (t.ret, t.traceRev.length, t.budget.toNat)) = some (.bool false, 8, 10000) := by decide

/-- V9 (a), the priority rule: both flags in one byte. -/
theorem test_poll_both : seen (exec .poll (scripted [] [(0x88#8, 0x21#8)])) =
    some ([.r 0x88#8 0x21#8], .bool true) := by decide

/-- V9 (i). -/
theorem test_poll_fourth : (after (exec .poll (scripted [] [(0x88#8, 0x00#8), (0x88#8, 0x00#8), (0x88#8, 0x04#8),
    (0x88#8, 0x20#8)]))).map (fun t => (t.ret, t.traceRev.length, t.budget.toNat)) = some (.bool true, 4, 9997) := by
  decide

/-- V9's small budget of 3, with P-ALT's masks (IRQ_RX = 0x04, IRQ_TIMER = 0x40): the fourth byte is never asked for. -/
theorem test_poll_budget : (fun x : Bool × State => (x.1, x.2.traceRev.length, x.2.budget.toNat, x.2.envReads))
    (pollFrom profileAlt 3 (scripted [] [(0xC0#8, 0x00#8), (0xC0#8, 0x00#8), (0xC0#8, 0x00#8), (0xC0#8, 0x04#8)])) =
    (false, 3, 0, [(0xC0#8, 0x04#8)]) := by decide

/-- V9's small budget of 3: the response on the last read. -/
theorem test_poll_budget_last : (fun x : Bool × State => (x.1, x.2.traceRev.length, x.2.budget.toNat))
    (pollFrom profileAlt 3 (scripted [] [(0xC0#8, 0x00#8), (0xC0#8, 0x00#8), (0xC0#8, 0x44#8)])) = (true, 3, 1) := by
  decide

/-! ## The UID -/

/-- The answers of a select phase that succeeds at once. -/
def selected (level : Byte) (data : List Byte) : List (Byte × Byte) :=
  [(0x88#8, 0xA4#8), (0x88#8, 0x20#8), (0x94#8, level)] ++ data.map (fun d => (0x92#8, d))

/-- V10, level 0x05: four bytes are read and the fifth is not. -/
theorem test_uidrd : (after (exec .uidrd (scripted [] (selected 0x05#8 [1#8, 2#8, 3#8, 4#8, 5#8])))).map
    (fun t => (t.ret, t.uid, t.traceRev.length, t.envReads)) =
    some (.bool true, ⟨1#8, 2#8, 3#8, 4#8⟩, 14, [(0x92#8, 5#8)]) := by decide

/-- V10, level 0x00: EmptyResponse, no FIFO-data read. -/
theorem test_uidrd_empty : (after (exec .uidrd (scripted [] (selected 0x00#8 [])))).map
    (fun t => (t.ret, t.uid, t.failKind, t.traceRev.head?)) =
    some (.bool false, ⟨0, 0, 0, 0⟩, some .emptyResponse, some (.r 0x94#8 0x00#8)) := by decide

/-- V10, level 0x02: only the first two bytes of UID are compared. -/
theorem test_uidrd_short : (after (exec .uidrd (scripted [] (selected 0x02#8 [0xAA#8, 0xBB#8])))).map
    (fun t => (t.ret, t.uid.b0, t.uid.b1, t.traceRev.length)) = some (.bool true, 0xAA#8, 0xBB#8, 12) := by decide

/-- E7, scenario C: 22 events (V15). -/
theorem test_rduid : (after (exec .rduid (scripted [] ([(0x88#8, 0x14#8), (0x88#8, 0x20#8)] ++
    selected 0x04#8 [0x04#8, 0x3A#8, 0x11#8, 0x9F#8])))).map (fun t => (t.ret, t.uid, t.traceRev.length)) =
    some (.bool true, ⟨0x04#8, 0x3A#8, 0x11#8, 0x9F#8⟩, 22) := by decide

/-- V16: RDUID under P-ALT; 22 events, the first two bytes of UID. -/
theorem test_rduid_alt : (after (exec .rduid { State.reset with
    ds := .configured, params := profileAlt, uid := ⟨7, 7, 7, 7⟩
    envReads := [(0xC0#8, 0xFF#8), (0xC0#8, 0x00#8), (0xC0#8, 0x00#8), (0xC0#8, 0x44#8), (0xC0#8, 0x05#8),
      (0xC0#8, 0x04#8), (0xBE#8, 0x02#8), (0x80#8, 0x10#8), (0x80#8, 0x20#8)] })).map
    (fun t => (t.ret, t.uid.b0, t.uid.b1, t.traceRev.length)) = some (.bool true, 0x10#8, 0x20#8, 22) := by decide

/-! ## The decoder of bus traces -/

/-- R96 under P-GK: the shapes two sites share, an event of a register no site writes, and a wrong direction. -/
theorem test_eventSites : eventSites profilePGK (.w 0x02#8 0x0F#8) = [.i2, .s1] ∧
    eventSites profilePGK (.r 0x88#8 0x20#8) = [.x2, .p1] ∧ eventSites profilePGK (.w 0x1A#8 0x87#8) = [.x7] ∧
    eventSites profilePGK (.w 0x56#8 0xA9#8) = [.i3] ∧ eventSites profilePGK (.w 0x7E#8 0#8) = [] ∧
    eventSites profilePGK (.w 0xA8#8 0#8) = [] := by decide

/-- E6's trace, scenario B: the first status read is X2, the second P1. -/
theorem test_decodeTrace_detect : decodeTrace profilePGK 3#2 [.w 0x02#8 0x00#8, .r 0x88#8 0x01#8, .w 0x08#8 0x01#8,
    .w 0x14#8 0x80#8, .w 0x12#8 0x52#8, .w 0x02#8 0x0C#8, .w 0x1A#8 0x87#8, .r 0x88#8 0x01#8] =
    some [.x1 .det, .x2 .det, .x3 .det, .x4 .det, .x5 .det 0, .x6 .det, .x7 .det, .p1 .det] := by decide

/-- V11 and V12: the soft-reset write is I2 in an INIT and S1 in a RESET; no event follows a failed `T.init`. -/
theorem test_decodeTrace_softReset : decodeTrace profilePGK 1#2 [.ti true, .w 0x02#8 0x0F#8] = some [.i1, .i2] ∧
    decodeTrace profilePGK 2#2 [.w 0x02#8 0x0F#8] = some [.s1] ∧
    decodeTrace profilePGK 1#2 [.ti false, .w 0x02#8 0x0F#8] = none := by decide

/-! ## The parameters as an argument -/

/-- R41, V12 and V16: one run, two parameter sets. -/
theorem test_execWith : (fun o => seen (mapNext (Run.under profileAlt) o)) (execWith profileAlt .cmdSoftreset Run.reset) =
      some ([.w 0x7E#8 0x1F#8], .nothing) ∧
    (fun o => seen (mapNext (Run.under profilePGK) o)) (execWith profilePGK .cmdSoftreset Run.reset) =
      some ([.w 0x02#8 0x0F#8], .nothing) := by decide

/-! ## The constants -/

/-- R88 under P-GK: Idle and Transceive. -/
theorem test_cmdIdle : seen (exec .cmdIdle State.reset) = some ([.w 0x02#8 0x00#8], .nothing) := by decide

theorem test_cmdTransceive : seen (exec .cmdTransceive State.reset) = some ([.w 0x02#8 0x0C#8], .nothing) := by decide

/-- R88, V12: the soft-reset command. -/
theorem test_cmdSoftreset : seen (exec .cmdSoftreset State.reset) = some ([.w 0x02#8 0x0F#8], .nothing) := by decide

/-- R89 under P-GK. -/
theorem test_wup : seen (exec .wup State.reset) = some ([.w 0x12#8 0x52#8], .nothing) := by decide

theorem test_sel : seen (exec .sel State.reset) = some ([.w 0x12#8 0x93#8, .w 0x12#8 0x20#8], .nothing) := by decide

/-! ## Witnesses: for each statement with hypotheses, a state and operands that meet them, for each of its clauses -/

/-- `Configured` and idle, nothing scripted. -/
def configured : State :=
  scripted [] []

/-- Policy `ungated`, DS `Uninitialized`. -/
def ungated : State :=
  withParams { profilePGK with policy := .ungated }

/-- RDUID running, at site U3, four bytes staged. -/
def committing : State :=
  { State.reset with ds := .configured, site := .u3, n := 4, stg := ⟨1, 2, 3, 4⟩ }

/-- In the polling wait with the last read of the budget, and with the first. -/
def waiting (budget : BitVec 14) : State :=
  { State.reset with ds := .configured, site := .p1 .det, budget := budget }

/-- In the FIFO reads: index and bound. -/
def staging (idx n : BitVec 3) : State :=
  { State.reset with ds := .configured, site := .u2, idx := idx, n := n }

theorem witness_DecodeEncodeRoundTrip : Instr.wf (.twrite 0x7E#8 0xFF#8) = true ∧
    encode (.twrite 0x7E#8 0xFF#8) = some (.transport 2 0x7E#8 0xFF#8 1) ∧
    Instr.wf (.wrreg 0x3F#6 0#8) = true ∧ encode (.wrreg 0x3F#6 0#8) = some (.frame [0x7E#8, 0#8]) := by decide

theorem witness_AcceptedRequestsReencode : decode (.host 3#2) = .instr .rduid ∧
    decode (.transport 0 7#8 7#8 5) = .instr .noRequest ∧ decode (.transport 1 7#8 7#8 1) = .instr .tinit ∧
    decode (.transport 2 0x12#8 7#8 1) = .instr (.twrite 0x12#8 7#8) ∧
    decode (.frame [0xFE#8, 0#8]) = .instr (.rdreg 0x3F#6) ∧
    decode (.transport 3 0xFE#8 0#8 1) = .instr (.tread 0xFE#8) := by decide

theorem witness_NeverProducedRequestsRejected : [0x02#8].length ≠ 2 ∧ [0x02#8, 0#8, 0#8].length ≠ 2 ∧
    (0x01#8).getLsbD 0 = true ∧ (0x80#8).getLsbD 0 = false ∧ (0x80#8).getLsbD 7 = true ∧ (1#8 : Byte) ≠ 0 ∧
    (0x7E#8).getLsbD 0 = false ∧ (0x7E#8).getLsbD 7 = false ∧ (0 : Nat) ≠ 1 ∧ (2 : Nat) ≠ 1 ∧
    ((1 : BitVec 2) = 1 ∨ (1 : BitVec 2) = 2 ∨ (1 : BitVec 2) = 3) := by decide

theorem witness_StepRunsDecodedInstruction : (moving (.call (.host 1#2))).site = .idle ∧
    (moving (.call (.host 1#2))).host = [.call (.host 1#2)] ∧ decode (.host 1#2) = .instr .init := by decide

theorem witness_StepRefusesRejectedRequest : (moving (.call (.frame []))).site = .idle ∧
    (moving (.call (.frame []))).host = [.call (.frame [])] ∧ decode (.frame []) = .rejected .frameLength := by decide

theorem witness_IdleBlockDoesNothing : State.reset.site = .idle ∧ State.reset.host = [] := by decide

/-- The clauses of codes 0, 1 and of the refusal from reset; those of codes 2 and 3 from `Configured` and `ungated`. -/
theorem witness_StartEntersFirstSite : (∀ op : BitVec 2, (moving (.start op)).site = .idle ∧
      (moving (.start op)).host = [.start op]) ∧
    State.reset.ds = .uninitialized ∧ State.reset.params.policy = .refuse ∧
    (∀ op : BitVec 2, { configured with host := [.start op] }.host = [.start op]) ∧
    configured.site = .idle ∧ configured.ds = .configured ∧
    ungated.site = .idle ∧ ungated.params.policy = .ungated := by
  refine ⟨fun _ => ⟨rfl, rfl⟩, by decide, by decide, fun _ => rfl, by decide, by decide, by decide, by decide⟩

/-- A legal site and two illegal ones, at the boundaries of their indices. -/
theorem witness_BusyStepIsOneSite : (waiting 1).site ≠ .idle ∧ siteLegal profilePGK (waiting 1) = true ∧
    siteLegal profilePGK (waiting 10000) = true ∧ siteLegal profilePGK (waiting 0) = false ∧
    siteLegal profilePGK (atSite (.i3 3)) = true ∧ siteLegal profilePGK (atSite (.i3 4)) = false ∧
    siteLegal profilePGK (atSite (.x5 .det 1)) = false ∧ siteLegal profilePGK (atSite (.x5 .sel 1)) = true ∧
    siteLegal profilePGK (staging 3 4) = true ∧ siteLegal profilePGK (staging 4 4) = false := by decide

theorem witness_HostWritesUidBank : (moving (.writeUid 3 0xFF#8)).site = .idle ∧
    (moving (.writeUid 3 0xFF#8)).host = [.writeUid 3 0xFF#8] ∧ (0 : Fin 4) ≠ 3 := by decide

theorem witness_ScriptedReadsAnswerInOrder :
    scriptFind (BitVec.ofNat 8 (128 + 2 * (0x3F#6).toNat)) (scripted [] [(0xFE#8, 7#8)]).envReads = some 7#8 := by decide

theorem witness_TransportCallsMakeOneEvent : (scripted [false] []).envInits = false :: [] ∧
    scriptFind 0x88#8 (scripted [] [(0x88#8, 0x20#8)]).envReads = some 0x20#8 := by decide

/-- Both clauses: all driver bits set, and one clear. -/
theorem witness_AntonReadsOnceWritesIfClear : (0x83#8 : Byte) &&& profilePGK.txEn = profilePGK.txEn ∧
    (0xFE#8 : Byte) &&& profilePGK.txEn ≠ profilePGK.txEn := by decide

theorem witness_InitOutcome : State.reset.site = .idle ∧ initAnswer (scripted [true] []) = true ∧
    (scripted [true] []).site = .idle ∧ initAnswer (scripted [false] []) = false ∧
    (scripted [false] []).site = .idle := by decide

/-- Clause by clause, as in the next two witnesses about RESET. -/
theorem witness_ResetIsOneSoftResetWrite : configured.site = .idle ∧ configured.ds = .configured ∧
    State.reset.site = .idle ∧
    State.reset.ds = .uninitialized ∧ State.reset.params.policy = .refuse := by decide

theorem witness_OperationsWithAMeaning : configured.site = .idle ∧ configured.ds = .configured ∧
    State.reset.site = .idle ∧ State.reset.ds = .uninitialized ∧ State.reset.params.policy = .refuse ∧
    ungated.site = .idle ∧ ungated.params.policy = .ungated := by decide

theorem witness_BusyOperationsRefused : (atSite .i1).site ≠ .idle := by decide

theorem witness_LifecycleTable : configured.site = .idle ∧ configured.ds = .configured ∧ State.reset.site = .idle ∧
    State.reset.ds = .uninitialized ∧ State.reset.params.policy = .refuse := by decide

/-- The hypotheses of the statements about RDUID; the two results of the wait are those of test_rduid and
witness_FailedRduidEndsAtFailingRead. -/
theorem witness_RduidFillOrFail : configured.site = .idle ∧ configured.ds = .configured := by decide

theorem witness_RduidTransportCallBound : configured.site = .idle ∧ configured.ds = .configured ∧
    ungated.site = .idle ∧ ungated.params.policy = .ungated := by decide

/-- E6 and E8: a failing RDUID of each kind. -/
theorem witness_FailedRduidEndsAtFailingRead :
    (after (exec .rduid (scripted [] [(0x88#8, 0x01#8), (0x88#8, 0x01#8)]))).map (fun t => (t.ret, t.failKind)) =
      some (.bool false, some .responseTimeout) ∧
    (after (exec .rduid (scripted [] ([(0x88#8, 0x14#8), (0x88#8, 0x20#8)] ++ selected 0x00#8 [])))).map
      (fun t => (t.ret, t.failKind)) = some (.bool false, some .emptyResponse) := by decide

theorem witness_SiteMakesItsTransportCall : siteLegal State.reset.params State.reset = true ∧
    siteLegal (atSite (.i3 0)).params (atSite (.i3 0)) = true ∧ siteLegal (waiting 10000).params (waiting 10000) = true ∧
    siteLegal committing.params committing = true := by decide

/-- The clauses about P1 and U2 at the ends of their ranges; the others need only a site. -/
theorem witness_SiteSuccessors : (waiting 1).site = .p1 .det ∧ 1 ≤ (waiting 1).budget.toNat ∧
    1 ≤ (waiting 10000).budget.toNat ∧
    (staging 0 1).site = .u2 ∧ (staging 0 1).idx.toNat < (staging 0 1).n.toNat ∧ (staging 0 1).n.toNat ≤ 4 ∧
    (staging 3 4).idx.toNat < (staging 3 4).n.toNat ∧ (staging 3 4).n.toNat ≤ 4 ∧
    (∀ x : Site, (atSite x).site = x) := by
  refine ⟨by decide, by decide, by decide, by decide, by decide, by decide, by decide, by decide, fun _ => rfl⟩

theorem witness_InitAndResetSitesMatchCall : State.reset.site = .idle ∧ configured.site = .idle ∧
    configured.ds = .configured := by decide

theorem witness_RduidSitesMatchCall : ungated.site = .idle ∧ ungated.params.policy = .ungated := by decide

theorem witness_SequencerReturnsToIdle : (waiting 10000).Inv ∧ committing.Inv ∧ State.reset.Inv := by decide

/-- The invariant holds, and a step answers, from an idle state, from one inside INIT and from one inside RDUID. -/
theorem witness_StepKeepsInvariant : State.reset.Inv ∧ { atSite .i4 with ds := .transportReady }.Inv ∧ committing.Inv ∧
    (∃ t, step State.reset = .next t) ∧ (∃ t, step { atSite .i4 with ds := .transportReady } = .next t) ∧
    ∃ t, step committing = .next t := by
  refine ⟨by decide, by decide, by decide, ⟨_, rfl⟩, ⟨_, rfl⟩, ⟨_, rfl⟩⟩

/-- The hypotheses of ParametersNeverChange, OnlyInitWritesDS and TraceOnlyGrows. -/
theorem witness_ParametersNeverChange : (∃ t, exec .reset configured = .next t) ∧ ∃ t, step (atSite (.x6 .sel)) = .next t :=
  ⟨⟨_, rfl⟩, ⟨_, rfl⟩⟩

/-- Another instruction, a site of INIT, and a call of INIT that changes DS. -/
theorem witness_OnlyInitWritesDS : Instr.reset ≠ .init ∧ (∃ t, exec .reset configured = .next t) ∧
    (after (step { scripted [true] [] with ds := .uninitialized, site := .i1 })).map (fun t => t.ds) = some .transportReady ∧
    (after (step { scripted [true] [] with ds := .uninitialized, host := [.call (.host 1#2)] })).map (fun t => t.ds) =
      some .configured :=
  ⟨by decide, ⟨_, rfl⟩, by decide, by decide⟩

theorem witness_NoStepBackToUninitialized : (∃ t, step committing = .next t) ∧ committing.ds ≠ .uninitialized :=
  ⟨⟨_, rfl⟩, by decide⟩

/-- Each of the three ways: the commit, a call of RDUID, the host's write. -/
theorem witness_UidChangesOnlyOnSuccess :
    (after (step committing)).map (fun t => t.uid) ≠ some committing.uid ∧
    (after (step { scripted [] ([(0x88#8, 0x14#8), (0x88#8, 0x20#8)] ++ selected 0x04#8 [1#8, 2#8, 3#8, 4#8]) with
      host := [.call (.host 3#2)] })).map (fun t => t.uid) = some ⟨1, 2, 3, 4⟩ ∧
    (after (step (moving (.writeUid 0 1#8)))).map (fun t => t.uid) = some ⟨1, 0, 0, 0⟩ := by decide

theorem witness_UidBankNeverRead : (∃ t, exec .reset configured = .next t) ∧
    exec .reset State.reset = .refused .unconfigured :=
  ⟨⟨_, rfl⟩, rfl⟩

theorem witness_WorkingRegistersDeadBetweenOperations :
    SameBetween configured { configured with tmp := 1, sReg := 2, budget := 3, lvl := 4, n := 5, idx := 6, stg := ⟨7, 8, 9, 10⟩ } ∧
    ∃ t, exec .reset configured = .next t :=
  ⟨rfl, ⟨_, rfl⟩⟩

theorem witness_TraceOnlyGrows : ∃ t, step (atSite .i4) = .next t :=
  ⟨_, rfl⟩

theorem witness_HostOperationEventsHaveListedShapes : ∃ t, exec .init State.reset = .next t :=
  ⟨_, rfl⟩

/-- A site of the table and its event, at the ends of the sites' indices. -/
theorem witness_EventShapeNamesItsSite : siteLegal profilePGK (atSite (.i3 3)) = true ∧
    siteEvent profilePGK (atSite (.i3 3)) = some (.w 0x5A#8 0x13#8) ∧
    siteLegal profilePGK (atSite (.x5 .sel 1)) = true ∧
    siteEvent profilePGK (atSite (.x5 .sel 1)) = some (.w 0x12#8 0x20#8) := by decide

theorem witness_RunTraceTellsItsSites : siteLegal (atSite .i2).params (atSite .i2) = true ∧
    siteLegal (waiting 1).params (waiting 1) = true ∧ siteLegal committing.params committing = true := by decide

theorem witness_HostOperationTraceDecodes : configured.site = .idle ∧
    (∃ t, exec (decodeHost 2#2) configured = .next t) ∧ ∃ t, exec (decodeHost 0#2) State.reset = .next t :=
  ⟨by decide, ⟨_, rfl⟩, ⟨_, rfl⟩⟩

end Sys2Proof.Tests
end

section
/-! What a procedure leaves unchanged (spec/10_state.md R20, R41), whatever the environment answers: DS, SITE, the host's
moves and the parameters; and the address bytes of the events it adds to the trace (spec/30_encoding.md R81). -/

namespace Sys2Proof.Machine

/-- What no procedure but INIT changes, and INIT changes of it DS alone (R21, R41). -/
structure Kept (s t : State) : Prop where
  ds : t.ds = s.ds
  site : t.site = s.site
  host : t.host = s.host
  params : t.params = s.params

/-- The trace grows, by events whose address bytes have the block's shape (R63, R81). -/
def AddsWire (s t : State) : Prop :=
  ∃ evs, t.traceRev = evs ++ s.traceRev ∧ evs.all wireShape = true

/-- What a procedure of the block does, whatever the environment answers. -/
structure Tame (s t : State) : Prop extends Kept s t where
  adds : AddsWire s t

theorem AddsWire.refl (s : State) : AddsWire s s := ⟨[], rfl, rfl⟩

theorem AddsWire.trans {s t u : State} (h : AddsWire s t) (h' : AddsWire t u) : AddsWire s u := by
  obtain ⟨evs, he, hw⟩ := h
  obtain ⟨evs', he', hw'⟩ := h'
  exact ⟨evs' ++ evs, by rw [he', he, List.append_assoc], by rw [List.all_append, hw, hw']; rfl⟩

/-- One event of the block's shape is added (R63). -/
theorem AddsWire.cons {s t : State} {e : BusEvent} (h : t.traceRev = e :: s.traceRev) (hw : wireShape e = true) :
    AddsWire s t :=
  ⟨[e], h, by simp [hw]⟩

theorem AddsWire.all {s t : State} (h : AddsWire s t) (hs : s.traceRev.all wireShape = true) :
    t.traceRev.all wireShape = true := by
  obtain ⟨evs, he, hw⟩ := h
  rw [he, List.all_append, hw, hs]; rfl

theorem Tame.refl (s : State) : Tame s s := ⟨⟨rfl, rfl, rfl, rfl⟩, .refl s⟩

theorem Tame.trans {s t u : State} (h : Tame s t) (h' : Tame t u) : Tame s u :=
  ⟨⟨h'.ds.trans h.ds, h'.site.trans h.site, h'.host.trans h.host, h'.params.trans h.params⟩, h.adds.trans h'.adds⟩

/-- Delivering a return value touches nothing of this (R27). -/
theorem Tame.deliver {s t : State} (h : Tame s t) (r : Ret) (k : Option ErrorKind) : Tame s (deliver r k t) :=
  ⟨⟨h.ds, h.site, h.host, h.params⟩, h.adds⟩

theorem Tame.deliverBool {s : State} {x : Option ErrorKind × State} (h : Tame s x.2) : Tame s (deliverBool x) :=
  h.deliver _ _

/-! The events of each procedure have the wire's shape (R81). -/

theorem xchgEvents_wire (p : Params) (cmd : List Byte) (framing d : Byte) :
    (xchgEvents p cmd framing d).all wireShape = true := by
  simp [xchgEvents]

theorem antonEvents_wire (p : Params) (d : Byte) : (antonEvents p d).all wireShape = true := by
  simp only [antonEvents]
  split <;> simp

theorem configureEvents_wire (p : Params) (d : Byte) : (configureEvents p d).all wireShape = true := by
  have h := antonEvents_wire p d
  simp only [configureEvents, List.all_append, List.all_cons, h]
  simp

theorem pollEvents_wire (p : Params) (vs : List Byte) : (pollEvents p vs).all wireShape = true := by
  simp [pollEvents]

/-! Each procedure. -/

theorem tame_memWrite (c : Code) (v : Byte) (s : State) : Tame s (memWrite c v s) :=
  ⟨⟨rfl, rfl, rfl, rfl⟩, .cons rfl (wireShape_w c v)⟩

theorem tame_memRead (c : Code) (s : State) : Tame s (memRead c s) :=
  ⟨⟨rfl, rfl, rfl, rfl⟩, .cons rfl (wireShape_r c _)⟩

theorem tame_transportInit (s : State) : Tame s (transportInit s) :=
  ⟨⟨rfl, rfl, rfl, rfl⟩, .cons rfl rfl⟩

theorem tame_loadCard (p : Params) (bytes : List Byte) (s : State) : Tame s (loadCard p bytes s) := by
  rw [loadCard, writeBlock_eq]
  exact ⟨⟨rfl, rfl, rfl, rfl⟩, _, rfl, by simp⟩

theorem tame_writeProgram (prog : List (Code × Byte)) (s : State) : Tame s (writeProgram prog s) := by
  rw [writeProgram_eq]
  exact ⟨⟨rfl, rfl, rfl, rfl⟩, _, rfl, by simp⟩

theorem tame_anton (p : Params) (s : State) : Tame s (anton p s) := by
  rw [anton_eq]
  exact ⟨⟨rfl, rfl, rfl, rfl⟩, _, rfl, by rw [List.all_reverse]; exact antonEvents_wire p _⟩

theorem tame_irqclr (p : Params) (s : State) : Tame s (irqclr p s) :=
  have h : Tame s (irqRead p s) := ⟨⟨rfl, rfl, rfl, rfl⟩, .cons rfl (wireShape_r p.regComIrq _)⟩
  h.trans (tame_memWrite _ _ _)

theorem tame_xchg (p : Params) (cmd : List Byte) (framing : Byte) (s : State) : Tame s (xchg p cmd framing s) := by
  rw [xchg_eq]
  exact ⟨⟨rfl, rfl, rfl, rfl⟩, _, rfl, by rw [List.all_reverse]; exact xchgEvents_wire p _ _ _⟩

theorem tame_poll (p : Params) (s : State) : Tame s (poll p s).2 := by
  obtain ⟨vs, found, last, budget, reads, draws, h, -⟩ := poll_waited p s
  rw [h]
  exact ⟨⟨rfl, rfl, rfl, rfl⟩, _, rfl, by rw [List.all_reverse]; exact pollEvents_wire p _⟩

/-- The exchange and its polling wait (R144, R175). -/
theorem tame_wait (p : Params) (c : CardCommand) (s : State) : Tame s (poll p (sendCard p c s)).2 :=
  (tame_xchg p c.bytes c.framing s).trans (tame_poll p _)

theorem tame_retrieve (p : Params) (s : State) : Tame s (retrieve p s).2 := by
  rcases retrieve_cases p s with ⟨reads, draws, h⟩ | ⟨level, bytes, reads, uid, draws, -, -, -, h⟩ <;> rw [h]
  · exact ⟨⟨rfl, rfl, rfl, rfl⟩, .cons rfl (wireShape_r p.regFifoLevel 0)⟩
  · exact ⟨⟨rfl, rfl, rfl, rfl⟩, _ ++ [_], by rw [List.append_assoc]; rfl, by simp⟩

/-- An exchange with a card command and its polling wait, then `f` if a response came (R175, R176). -/
def waitThen (p : Params) (c : CardCommand) (f : State → Option ErrorKind × State) (s : State) :
    Option ErrorKind × State :=
  match poll p (sendCard p c s) with
  | (false, s1) => (some .responseTimeout, s1)
  | (true, s1) => f s1

/-- UID retrieval is the select exchange, its wait, then the level read and the parse (R175). -/
theorem uidrd_eq_waitThen (p : Params) : uidrd p = waitThen p (selCommand p) (retrieve p) := rfl

/-- RDUID is the detection exchange, its wait, then UID retrieval (R176). -/
theorem rduid_eq_waitThen (p : Params) : rduid p = waitThen p (wupCommand p) (uidrd p) := rfl

theorem tame_waitThen (p : Params) (c : CardCommand) {f : State → Option ErrorKind × State}
    (hf : ∀ s, Tame s (f s).2) (s : State) : Tame s (waitThen p c f s).2 := by
  have hw := tame_wait p c s
  rw [waitThen]
  split <;> rename_i hx <;> rw [hx] at hw
  · exact hw
  · exact hw.trans (hf _)

theorem tame_uidrd (p : Params) (s : State) : Tame s (uidrd p s).2 := by
  rw [uidrd_eq_waitThen]
  exact tame_waitThen p (selCommand p) (tame_retrieve p) s

theorem tame_rduid (p : Params) (s : State) : Tame s (rduid p s).2 := by
  rw [rduid_eq_waitThen]
  exact tame_waitThen p (wupCommand p) (tame_uidrd p) s

theorem tame_configure (p : Params) (s : State) : Tame s { configure p s with ds := s.ds } := by
  rw [configure_eq]
  exact ⟨⟨rfl, rfl, rfl, rfl⟩, _, rfl, by rw [List.all_reverse]; exact configureEvents_wire p _⟩

/-- INIT changes DS and nothing else of this (R120). -/
theorem tame_initProc (p : Params) (s : State) : Tame s { initProc p s with ds := s.ds } := by
  rw [initProc]
  split
  · exact (tame_transportInit s).trans (tame_configure p (transportInit s))
  · exact (tame_transportInit s).deliver _ _

/-- What INIT leaves in DS (R120, R125). -/
theorem initProc_ds (p : Params) (s : State) :
    (initProc p s).ds = if initAnswer s then .configured else s.ds := by
  rw [initProc]
  split
  · rw [configure_eq]
  · rfl

/-! Every instruction. -/

/-- What every instruction but INIT leaves unchanged, and the shape of the events of a well-formed one (R21, R41, R81). -/
theorem exec_kept {i : Instr} {s t : State} (hi : i ≠ .init) (h : exec i s = .next t) :
    Kept s t ∧ (i.wf = true → AddsWire s t) := by
  have tame {u : State} (hu : Tame s u) (ht : t = u) : Kept s t ∧ (i.wf = true → AddsWire s t) :=
    ht ▸ ⟨hu.toKept, fun _ => hu.adds⟩
  cases i with
  | init => exact absurd rfl hi
  | reset => exact tame ((tame_memWrite _ _ s).deliver _ _) (admitted_of_next (f := resetProc s.params) h).2.2
  | rduid =>
    exact tame (tame_rduid s.params s).deliverBool
      (admitted_of_next (f := fun s => deliverBool (rduid s.params s)) h).2.2
  | twrite a d =>
    cases h
    exact ⟨⟨rfl, rfl, rfl, rfl⟩, fun hw => .cons rfl hw⟩
  | tread a =>
    cases h
    exact ⟨⟨rfl, rfl, rfl, rfl⟩, fun hw => .cons rfl hw⟩
  | nop | noRequest => cases h; exact tame (.refl s) rfl
  | wrreg | askcfg | flush | cmdIdle | cmdTransceive | cmdSoftreset =>
    cases h; exact tame ((tame_memWrite _ _ s).deliver _ _) rfl
  | rdreg => cases h; exact tame ((tame_memRead _ s).deliver _ _) rfl
  | tinit => cases h; exact tame ((tame_transportInit s).deliver _ _) rfl
  | tmrcfg => cases h; exact tame ((tame_writeProgram _ s).deliver _ _) rfl
  | anton => cases h; exact tame ((tame_anton _ s).deliver _ _) rfl
  | irqclr => cases h; exact tame ((tame_irqclr _ s).deliver _ _) rfl
  | xchg => cases h; exact tame ((tame_xchg _ _ _ s).deliver _ _) rfl
  | detect => cases h; exact tame (Tame.deliverBool (tame_wait _ _ s)) rfl
  | poll => cases h; exact tame (Tame.deliverBool (tame_poll _ s)) rfl
  | uidrd => cases h; exact tame (tame_uidrd _ s).deliverBool rfl
  | wup | sel => cases h; exact tame ((tame_loadCard _ _ s).deliver _ _) rfl

/-- INIT answers only while the block is idle, with what its procedure gives (R28, R120). -/
theorem exec_init_next {s t : State} (h : exec .init s = .next t) : s.site = .idle ∧ t = initProc s.params s := by
  by_cases hi : s.site = .idle
  · rw [exec_init_of_idle hi] at h
    exact ⟨hi, (Host.Outcome.next.inj h).symm⟩
  · simp only [exec, execInit, hostGate_busy hi] at h
    cases h

/-- No instruction changes a parameter, SITE or the host's moves (R41, R28). -/
theorem exec_keeps {i : Instr} {s t : State} (h : exec i s = .next t) :
    t.site = s.site ∧ t.host = s.host ∧ t.params = s.params := by
  by_cases hi : i = .init
  · subst hi
    obtain ⟨-, rfl⟩ := exec_init_next h
    obtain ⟨-, hs, hh, hp⟩ := (tame_initProc s.params s).toKept
    exact ⟨hs, hh, hp⟩
  · obtain ⟨⟨-, hs, hh, hp⟩, -⟩ := exec_kept hi h
    exact ⟨hs, hh, hp⟩

/-- DS after an instruction is as before, or `Configured` by INIT (R21, R125). -/
theorem exec_ds {i : Instr} {s t : State} (h : exec i s = .next t) : t.ds = s.ds ∨ (i = .init ∧ t.ds = .configured) := by
  by_cases hi : i = .init
  · subst hi
    obtain ⟨-, rfl⟩ := exec_init_next h
    rw [initProc_ds]
    split
    · exact .inr ⟨rfl, rfl⟩
    · exact .inl rfl
  · exact .inl (exec_kept hi h).1.ds

/-- A well-formed instruction adds events of the block's shape only (R81). -/
theorem exec_addsWire {i : Instr} {s t : State} (hw : i.wf = true) (h : exec i s = .next t) : AddsWire s t := by
  by_cases hi : i = .init
  · subst hi
    obtain ⟨-, rfl⟩ := exec_init_next h
    exact (tame_initProc s.params s).adds
  · exact (exec_kept hi h).2 hw

end Sys2Proof.Machine
end

section
/-! What decodes is an instruction of the block's ports (spec/30_encoding.md R92, R94); what one site of the table
(spec/10_state.md R23) does to each field; and from both, the invariant. -/

namespace Sys2Proof.Machine

/-! Decoding. -/

/-- An instruction with operands the block produces and an encoding of its own (R92, R94). -/
def Encodable (i : Instr) : Prop :=
  i.wf = true ∧ (encode i).isSome = true

theorem decodeHost_encodable (op : BitVec 2) : Encodable (decodeHost op) := by
  unfold decodeHost
  split_ifs <;> exact ⟨rfl, rfl⟩

theorem checkSize_instr {size : Nat} {d : Decoded} {i : Instr} (h : checkSize size d = .instr i) : d = .instr i := by
  unfold checkSize at h
  split at h
  · exact h
  · cases h

theorem checkAddress_instr {read : Bool} {address : Byte} {i j : Instr} (h : checkAddress read address i = .instr j) :
    addressShape read address = true ∧ i = j := by
  unfold checkAddress at h
  split_ifs at h with h0 hd
  cases h
  exact ⟨by simp_all [addressShape], rfl⟩

theorem decodeTransport_encodable {kind : BitVec 2} {address wdata : Byte} {size : Nat} {i : Instr}
    (h : decodeTransport kind address wdata size = .instr i) : Encodable i := by
  unfold decodeTransport at h
  split_ifs at h
  · cases h; exact ⟨rfl, rfl⟩
  · cases checkSize_instr h; exact ⟨rfl, rfl⟩
  · obtain ⟨hw, rfl⟩ := checkAddress_instr (checkSize_instr h); exact ⟨hw, rfl⟩
  · obtain ⟨hw, rfl⟩ := checkAddress_instr (checkSize_instr h); exact ⟨hw, rfl⟩

theorem decodeFrame_encodable {bytes : List Byte} {i : Instr} (h : decodeFrame bytes = .instr i) : Encodable i := by
  unfold decodeFrame at h
  split at h
  · split_ifs at h <;> cases h <;> exact ⟨rfl, rfl⟩
  · cases h

/-- Whatever decodes is one of the block's instructions (R92, R94). -/
theorem decode_encodable {r : Request} {i : Instr} (h : decode r = .instr i) : Encodable i := by
  cases r with
  | host op => cases h; exact decodeHost_encodable op
  | transport => exact decodeTransport_encodable h
  | frame => exact decodeFrame_encodable h

/-! Entering an operation. -/

/-- A host code taken site by site stays idle or enters a first site; nothing else changes (R23, R28). -/
theorem enterOperation_next {p : Params} {op : BitVec 2} {s t : State} (h : enterOperation p op s = .next t) :
    ∃ x, t = { s with site := x } ∧ (x = s.site ∨ x = .i1 ∨ x = .s1 ∨ x = .x1 .det) := by
  unfold enterOperation at h
  split at h
  case h_4 => cases h; exact ⟨s.site, rfl, .inl rfl⟩
  all_goals
    split at h
    · cases h
    · cases h; exact ⟨_, rfl, by simp⟩

/-! One site. -/

/-! The sites whose successor hangs on the environment's answer: one of two or more exits from the same call. -/

theorem siteI1_eq (s : State) : ∃ d x, siteI1 s = { transportInit s with ds := d, site := x } := by
  rw [siteI1]
  split <;> exact ⟨_, _, rfl⟩

theorem siteI5_eq (p : Params) (s : State) : ∃ d x, siteI5 p s = { antonRead p s with ds := d, site := x } := by
  rw [siteI5]
  split <;> exact ⟨_, _, rfl⟩

theorem siteP1_eq (p : Params) (ph : Phase) (s : State) :
    ∃ b x, siteP1 p ph s = { pollRead p s with budget := b, site := x } := by
  simp only [siteP1]
  split_ifs <;> exact ⟨_, _, rfl⟩

theorem siteU1_eq (p : Params) (s : State) :
    ∃ n i x, siteU1 p s = { levelRead p s with n := n, idx := i, site := x } := by
  rw [siteU1]
  split <;> exact ⟨_, _, _, rfl⟩

/-- What one site leaves unchanged, and the event it adds (R23): DS is written at I1, I5 and I6 alone (R21), the UID bank
at U3 alone (R26), no parameter at all (R41). -/
structure SiteFrame (p : Params) (s t : State) : Prop where
  params : t.params = s.params
  ds : t.ds = s.ds ∨ s.site = .i1 ∨ s.site = .i5 ∨ s.site = .i6
  uid : t.uid = s.uid ∨ s.site = .u3
  trace : t.traceRev = (siteEvent p s).toList ++ s.traceRev

theorem siteStep_frame (p : Params) (s : State) : SiteFrame p s (siteStep p s) := by
  cases hs : s.site <;> simp only [siteStep, hs]
  case i1 =>
    obtain ⟨d, x, h⟩ := siteI1_eq s
    exact h ▸ ⟨rfl, .inr (.inl hs), .inl rfl, by simp [siteEvent, hs]⟩
  case i3 k =>
    rw [writeProgram_eq]
    exact ⟨rfl, .inl rfl, .inl rfl, by cases h : p.timerProgram[k]? <;> simp [siteEvent, hs, h]⟩
  case i5 =>
    obtain ⟨d, x, h⟩ := siteI5_eq p s
    exact h ▸ ⟨rfl, .inr (.inr (.inl hs)), .inl rfl, by simp [siteEvent, hs, antonRead]⟩
  case i6 => exact ⟨rfl, .inr (.inr (.inr hs)), .inl rfl, by simp [siteEvent, hs, initDone, antonWrite]⟩
  case x5 ph i =>
    rw [loadCard, writeBlock_eq]
    exact ⟨rfl, .inl rfl, .inl rfl, by cases h : (cardCommand p ph).bytes[i]? <;> simp [siteEvent, hs, h]⟩
  case p1 ph =>
    obtain ⟨b, x, h⟩ := siteP1_eq p ph s
    exact h ▸ ⟨rfl, .inl rfl, .inl rfl, by simp [siteEvent, hs, pollRead]⟩
  case u1 =>
    obtain ⟨n, i, x, h⟩ := siteU1_eq p s
    exact h ▸ ⟨rfl, .inl rfl, .inl rfl, by simp [siteEvent, hs, levelRead]⟩
  case u3 => exact ⟨rfl, .inl rfl, .inr hs, by simp [siteEvent, hs]⟩
  all_goals exact ⟨rfl, .inl rfl, .inl rfl, by simp only [siteEvent, hs]; rfl⟩

/-- The event of a site has the wire's shape (R81). -/
theorem siteEvent_wire (p : Params) (s : State) : (siteEvent p s).toList.all wireShape = true := by
  cases hs : s.site <;> simp only [siteEvent, hs]
  case i3 k => cases p.timerProgram[k]? <;> simp
  case x5 ph i => cases (cardCommand p ph).bytes[i]? <;> simp
  all_goals simp

/-- One site adds at most one event, of the block's shape (R23, R81). -/
theorem siteStep_addsWire (p : Params) (s : State) : AddsWire s (siteStep p s) :=
  ⟨_, (siteStep_frame p s).trace, siteEvent_wire p s⟩

end Sys2Proof.Machine
end

section
/-! The invariant (spec/10_state.md R21, R23, R41): kept by every step, and met at reset. -/

namespace Sys2Proof.Machine

/-- DS is `TransportReady` exactly inside a running INIT (R21). -/
def Lifecycle (s : State) : Prop :=
  s.ds = .transportReady ↔ configuring s.site = true

theorem configuring_timerSite (p : Params) (k : Nat) : configuring (timerSite p k) = true := by
  rw [timerSite]; split <;> rfl

theorem configuring_loadSite (p : Params) (ph : Phase) (i : Nat) : configuring (loadSite p ph i) = false := by
  rw [loadSite]; split <;> rfl

/-- Sites with `TransportReady` lead to each other, with the entry I1 and the two exits I5 and I6 to END (R23, R120). -/
theorem lifecycle_siteStep {p : Params} {s : State} (h : Lifecycle s) : Lifecycle (siteStep p s) := by
  unfold Lifecycle at h ⊢
  by_cases hw : s.site = .i1 ∨ s.site = .i5 ∨ s.site = .i6
  · rcases hw with hs | hs | hs <;> simp only [hs, configuring] at h <;> simp only [siteStep, hs]
    · rw [siteI1]; split
      · simp [configuring]
      · simpa [configuring] using h
    · simp only [siteI5]; split
      · simpa [configuring, antonRead] using h
      · simp [configuring, initDone]
    · simp [configuring, initDone]
  · have hd : (siteStep p s).ds = s.ds := (siteStep_frame p s).ds.resolve_right hw
    have hc : configuring (siteStep p s).site = configuring s.site := by
      cases hs : s.site <;> simp only [siteStep, hs]
      case i1 | i5 | i6 => simp [hs] at hw
      case i2 => exact configuring_timerSite p 0
      case i3 k => exact configuring_timerSite p (k + 1)
      case x4 ph => exact configuring_loadSite p ph 0
      case x5 ph i => exact configuring_loadSite p ph (i + 1)
      case p1 ph => simp only [siteP1]; split_ifs <;> cases ph <;> rfl
      case u1 => rw [siteU1]; split <;> rfl
      case u2 => simp only [siteU2]; split <;> rfl
      all_goals rfl
    rw [hd, hc, h]

/-- One site keeps the invariant (R23). -/
theorem inv_siteStep {s : State} (h : s.Inv) : (siteStep s.params s).Inv := by
  obtain ⟨hwf, hl, hd, ht⟩ := h
  have hp := (siteStep_frame s.params s).params
  exact ⟨by rw [hp]; exact hwf, by rw [hp]; exact siteLegal_siteStep s.params s hl, lifecycle_siteStep hd,
    (siteStep_addsWire s.params s).all ht⟩

/-- At IDLE the invariant says nothing of SITE and the registers (R21, R23). -/
theorem inv_of_idle {s : State} (hi : s.site = .idle) :
    s.Inv ↔ s.params.wf = true ∧ s.ds ≠ .transportReady ∧ s.traceRev.all wireShape = true := by
  simp [State.Inv, siteLegal, hi, configuring]

/-- A whole call keeps the invariant (R28). -/
theorem inv_exec {i : Instr} {s t : State} (hi : s.site = .idle) (hw : i.wf = true) (h : s.Inv)
    (he : exec i s = .next t) : t.Inv := by
  obtain ⟨hwf, hd, ht⟩ := (inv_of_idle hi).mp h
  obtain ⟨hs, -, hp⟩ := exec_keeps he
  refine (inv_of_idle (hs.trans hi)).mpr ⟨hp ▸ hwf, ?_, (exec_addsWire hw he).all ht⟩
  rcases exec_ds he with h' | ⟨-, h'⟩ <;> rw [h']
  · exact hd
  · decide

/-- Entering an operation keeps the invariant: a first site has no index, and is no site of a running INIT (R23). -/
theorem inv_enterOperation {p : Params} {op : BitVec 2} {s t : State} (hi : s.site = .idle) (h : s.Inv)
    (he : enterOperation p op s = .next t) : t.Inv := by
  obtain ⟨hwf, hd, ht⟩ := (inv_of_idle hi).mp h
  obtain ⟨x, rfl, rfl | rfl | rfl | rfl⟩ := enterOperation_next he
  · exact h
  all_goals exact ⟨hwf, rfl, by simpa [configuring] using hd, ht⟩

/-- Settles O41: by the cases of a step; a whole call is well-formed because it was decoded. -/
theorem stepKeepsInvariant : Obligations.StepKeepsInvariant := by
  intro s t h hstep
  rcases step_cases hstep with ⟨-, -, rfl⟩ | ⟨r, rest, i, hi, -, hd, he⟩ | ⟨op, rest, hi, -, he⟩ |
    ⟨i, v, rest, hi, -, rfl⟩ | ⟨-, -, rfl⟩
  · exact h
  · exact inv_exec (s := { s with host := rest }) hi (decode_encodable hd).1 h he
  · exact inv_enterOperation (s := { s with host := rest }) hi h he
  · exact h
  · exact inv_siteStep h

/-- Settles O42: every part of the invariant evaluates on the reset state. -/
theorem resetMeetsInvariant : Obligations.ResetMeetsInvariant := by
  unfold Obligations.ResetMeetsInvariant
  decide

/-- Settles O44: by the cases of a step, each of which leaves the parameters. -/
theorem parametersNeverChange : Obligations.ParametersNeverChange := by
  refine ⟨fun i s t h => (exec_keeps h).2.2, fun s t hstep => ?_⟩
  rcases step_cases hstep with ⟨-, -, rfl⟩ | ⟨r, rest, i, -, -, -, he⟩ | ⟨op, rest, -, -, he⟩ |
    ⟨i, v, rest, -, -, rfl⟩ | ⟨-, -, rfl⟩
  · rfl
  · exact (exec_keeps he).2.2
  · obtain ⟨x, rfl, -⟩ := enterOperation_next he
    rfl
  · rfl
  · exact (siteStep_frame s.params s).params

/-- An outcome whose next state keeps the parameters is read as a run and put back under them (R41). -/
theorem mapNext_under_toRun {p : Params} {o : Host.Outcome State Fault Refusal}
    (h : ∀ t, o = .next t → t.params = p) : mapNext (Run.under p) (mapNext (fun s => s.toRun) o) = o := by
  cases o with
  | next t => rw [← h t rfl]; rfl
  | fault | refused => rfl

/-- Settles O55: no instruction and no step changes the parameters, so putting them back beside the run is no change. -/
theorem parametersAreAnArgument : Obligations.ParametersAreAnArgument := by
  obtain ⟨hexec, hstep⟩ := parametersNeverChange
  exact ⟨fun i s => (mapNext_under_toRun (hexec i s)).symm, fun s => (mapNext_under_toRun (hstep s)).symm,
    fun p => ⟨rfl, rfl⟩⟩

/-- Settles O45: by the cases of a step; the whole call that writes DS is INIT's. -/
theorem onlyInitWritesDS : Obligations.OnlyInitWritesDS := by
  refine ⟨fun i s t hi h => (exec_kept hi h).1.ds, fun s t hstep hne => ?_⟩
  rcases step_cases hstep with ⟨-, -, rfl⟩ | ⟨r, rest, i, hs, hh, hd, he⟩ | ⟨op, rest, -, -, he⟩ |
    ⟨i, v, rest, -, -, rfl⟩ | ⟨-, -, rfl⟩
  · exact absurd rfl hne
  · obtain ⟨rfl, -⟩ := (exec_ds he).resolve_left hne
    exact .inr (.inr (.inr ⟨hs, r, rest, hh, hd⟩))
  · obtain ⟨x, rfl, -⟩ := enterOperation_next he
    exact absurd rfl hne
  · exact absurd rfl hne
  · rcases (siteStep_frame s.params s).ds.resolve_left hne with h | h | h
    · exact .inl h
    · exact .inr (.inl h)
    · exact .inr (.inr (.inl h))

end Sys2Proof.Machine
end

section
/-! One step at IDLE and at a busy site (spec/10_state.md R22, R23, R26, R28), and the site table column by column. -/

namespace Sys2Proof.Machine

/-- Settles O6: the three values and the six encodings evaluate. -/
theorem stateEncodings : Obligations.StateEncodings := by
  refine ⟨fun d => ?_, rfl, rfl, rfl, rfl, rfl, rfl, rfl, rfl⟩
  cases d <;> rfl

/-! A step while the block is idle, by the host's next move. -/

theorem step_of_idle {s : State} (h : s.site = .idle) : step s = idleStep s := by
  rw [step, if_pos h]

theorem step_call {s : State} {r : Request} {rest : List HostMove} (hs : s.site = .idle) (hh : s.host = .call r :: rest) :
    step s = runDecoded (decode r) { s with host := rest } := by
  rw [step_of_idle hs, idleStep, hh]

theorem step_start {s : State} {op : BitVec 2} {rest : List HostMove} (hs : s.site = .idle)
    (hh : s.host = .start op :: rest) : step s = enterOperation s.params op { s with host := rest } := by
  rw [step_of_idle hs, idleStep, hh]

theorem step_writeUid {s : State} {i : Fin 4} {v : Byte} {rest : List HostMove} (hs : s.site = .idle)
    (hh : s.host = .writeUid i v :: rest) : step s = .next (writeUid i v { s with host := rest }) := by
  rw [step_of_idle hs, idleStep, hh]

/-- Settles O7: the step takes the request and runs what it decodes to. -/
theorem stepRunsDecodedInstruction : Obligations.StepRunsDecodedInstruction := by
  intro s r rest i hs hh hd
  rw [step_call hs hh, hd, runDecoded]

/-! Entering an operation, by its code. -/

theorem enterOperation_nop (p : Params) (s : State) : enterOperation p 0 s = .next s := rfl

theorem enterOperation_init {s : State} (hs : s.site = .idle) :
    enterOperation s.params 1 s = .next { s with site := .i1 } := by
  simp [enterOperation, decodeHost, hostGate_init hs]

theorem enterOperation_reset {s : State} (hs : s.site = .idle) (hc : s.ds = .configured ∨ s.params.policy = .ungated) :
    enterOperation s.params 2 s = .next { s with site := .s1 } := by
  simp [enterOperation, decodeHost, hostGate_admitted hs hc]

theorem enterOperation_rduid {s : State} (hs : s.site = .idle) (hc : s.ds = .configured ∨ s.params.policy = .ungated) :
    enterOperation s.params 3 s = .next { s with site := .x1 .det } := by
  simp [enterOperation, decodeHost, hostGate_admitted hs hc]

theorem enterOperation_unconfigured {s : State} {op : BitVec 2} (hs : s.site = .idle) (hop : op = 2 ∨ op = 3)
    (hd : s.ds ≠ .configured) (hp : s.params.policy = .refuse) :
    enterOperation s.params op s = .refused .unconfigured := by
  rcases hop with rfl | rfl <;> simp [enterOperation, decodeHost, hostGate_unconfigured hs hd hp]

/-- Settles O10: a started code is entered in the state without the move, by the case of the code and of the gate. -/
theorem startEntersFirstSite : Obligations.StartEntersFirstSite := by
  intro s rest op hs hh
  rw [step_start hs hh]
  refine ⟨?_, ?_, ?_, ?_, ?_⟩
  · rintro rfl; exact enterOperation_nop _ _
  · rintro rfl; exact enterOperation_init (s := { s with host := rest }) hs
  · rintro rfl hc; exact enterOperation_reset (s := { s with host := rest }) hs hc
  · rintro rfl hc; exact enterOperation_rduid (s := { s with host := rest }) hs hc
  · intro hop hd hp
    exact enterOperation_unconfigured (s := { s with host := rest }) hs hop (by simp [hd]) hp

/-- Settles O11: a busy step is `advance`, which tests SITE. -/
theorem busyStepIsOneSite : Obligations.BusyStepIsOneSite := by
  intro s hs
  rw [step, if_neg hs, advance]
  exact ⟨fun hl => by rw [if_pos hl], fun hl => by rw [hl]; rfl⟩

/-! The banks. -/

theorem bankGet_bankSet_same (b : Bank) (i : Fin 4) (v : Byte) : bankGet (bankSet b i.val v) i = v := by
  fin_cases i <;> rfl

theorem bankGet_bankSet_other (b : Bank) {i j : Fin 4} (v : Byte) (h : j ≠ i) :
    bankGet (bankSet b i.val v) j = bankGet b j := by
  revert h
  fin_cases i <;> fin_cases j <;> simp [bankGet, bankSet]

/-- Settles O12: the write goes to the byte named and to no other. -/
theorem hostWritesUidBank : Obligations.HostWritesUidBank := by
  intro s rest i v hs hh
  exact ⟨_, step_writeUid hs hh, rfl, bankGet_bankSet_same _ i v, fun j hj => bankGet_bankSet_other _ v hj⟩

/-- Settles O26: the gate of each host operation answers busy. -/
theorem busyOperationsRefused : Obligations.BusyOperationsRefused := by
  intro s hs
  refine ⟨?_, ?_, ?_⟩
  · simp only [exec, execInit, hostGate_busy hs]
  · simp only [exec, execReset, hostGate_busy hs]
  · simp only [exec, execRduid, hostGate_busy hs]

/-! The site table. -/

/-- A site of the table with no transport call is IDLE, U3 or END (R23, third column). -/
theorem siteEvent_isNone_iff {p : Params} {s : State} (hl : siteLegal p s = true) :
    (siteEvent p s).isNone = true ↔ s.site = .idle ∨ s.site = .u3 ∨ ∃ ret kind, s.site = .opEnd ret kind := by
  cases hs : s.site <;> simp [siteEvent, hs]
  case i3 k => simpa [siteLegal, hs] using hl
  case x5 ph i => simpa [siteLegal, hs] using hl

/-- Settles O36: the frame of one site gives the event, and the index of I3 and X5 is one of the table. -/
theorem siteMakesItsTransportCall : Obligations.SiteMakesItsTransportCall := by
  intro s hl
  refine ⟨?_, siteEvent_isNone_iff hl⟩
  rw [State.busTrace, (siteStep_frame s.params s).trace]
  cases siteEvent s.params s <;> simp [State.busTrace]

/-! The successors (R23, fourth column) of the sites that branch. -/

theorem siteI1_site (s : State) :
    (siteI1 s).site = if initAnswer s then .i2 else .opEnd (.status .error) (some .transportSetupError) := by
  rw [siteI1]; split <;> rfl

theorem timerSite_zero (p : Params) : timerSite p 0 = if p.timerProgram = [] then .i4 else .i3 0 := by
  cases h : p.timerProgram <;> simp [timerSite, h]

theorem siteI5_site (p : Params) (s : State) :
    (siteI5 p s).site =
      if memReadByte p.regTxControl s &&& p.txEn = p.txEn then .opEnd (.status .ok) none else .i6 := by
  have ht : (antonRead p s).tmp = memReadByte p.regTxControl s := rfl
  by_cases h : memReadByte p.regTxControl s &&& p.txEn = p.txEn <;>
    simp [siteI5, ht, driverClear, h, initDone]

/-- WUP has one byte and SEL two, so X5 is followed by another only in phase SEL (R89). -/
theorem loadSite_succ (p : Params) (ph : Phase) (k : Nat) :
    loadSite p ph (k + 1) = if ph = .sel ∧ k = 0 then .x5 ph 1 else .x6 ph := by
  cases ph
  · simp [loadSite, cardCommand, wupCommand]
  · cases k <;> simp [loadSite, cardCommand, selCommand]

theorem foundSite_eq (ph : Phase) : foundSite ph = if ph = .det then .x1 .sel else .u1 := by
  cases ph <;> rfl

theorem rxSeen_iff {p : Params} {v : Byte} : rxSeen p v = true ↔ v &&& p.irqRx ≠ 0 := bne_iff_ne

theorem timerSeen_iff {p : Params} {v : Byte} : timerSeen p v = true ↔ v &&& p.irqTimer ≠ 0 := bne_iff_ne

/-- BUDGET less one is 0 exactly at the last read (R161). -/
theorem budget_pred_eq_zero_iff (b : BitVec 14) : b - 1 = 0 ↔ b = 1 := by
  bv_omega

theorem siteP1_site (p : Params) (ph : Phase) (s : State) :
    (siteP1 p ph s).site =
      if memReadByte p.regComIrq s &&& p.irqRx ≠ 0 then (if ph = .det then .x1 .sel else .u1)
      else if memReadByte p.regComIrq s &&& p.irqTimer ≠ 0 ∨ s.budget = 1
        then .opEnd (.bool false) (some .responseTimeout)
      else .p1 ph := by
  have hv : (pollRead p s).sReg = memReadByte p.regComIrq s := rfl
  have hb : (pollRead p s).budget = s.budget := rfl
  simp only [siteP1, hv, hb, rxSeen_iff, timerSeen_iff, budget_pred_eq_zero_iff, ← foundSite_eq]
  by_cases hr : memReadByte p.regComIrq s &&& p.irqRx ≠ 0
  · rw [if_pos hr, if_pos hr]
  · rw [if_neg hr, if_neg hr]
    by_cases ht : memReadByte p.regComIrq s &&& p.irqTimer ≠ 0
    · rw [if_pos ht, if_pos (.inl ht)]; rfl
    · rw [if_neg ht]
      by_cases h1 : s.budget = 1
      · rw [if_pos h1, if_pos (.inr h1)]; rfl
      · rw [if_neg h1, if_neg (not_or.mpr ⟨ht, h1⟩)]

theorem siteU1_site (p : Params) (s : State) :
    (siteU1 p s).site =
      if memReadByte p.regFifoLevel s = 0 then .opEnd (.bool false) (some .emptyResponse) else .u2 := by
  have hl : (levelRead p s).lvl = memReadByte p.regFifoLevel s := rfl
  rw [siteU1, hl]; split <;> rfl

theorem siteU2_site (p : Params) (s : State) (hi : s.idx.toNat < s.n.toNat) (hn : s.n.toNat ≤ 4) :
    (siteU2 p s).site = if s.idx.toNat + 1 < s.n.toNat then .u2 else .u3 := by
  have hx : (stageByte p s).idx.toNat = s.idx.toNat + 1 := by
    show (s.idx + 1).toNat = _
    bv_omega
  have hm : (stageByte p s).n = s.n := rfl
  simp only [siteU2, hx, hm]

/-- Settles O37: by the site; those that branch by their lemmas above. -/
theorem siteSuccessors : Obligations.SiteSuccessors := by
  intro s ph k
  refine ⟨fun h => ?i1, fun h => ?i2, fun h => ?i3, fun h => ?i4, fun h => ?i5, fun h => ?i6, fun h => ?s1, fun h => ?x1,
    fun h => ?x2, fun h => ?x3, fun h => ?x4, fun h => ?x5, fun h => ?x6, fun h => ?x7, fun h _ => ?p1, fun h => ?u1,
    fun h hi hn => ?u2, fun h => ?u3, fun ret kind h => ?opEnd⟩ <;> simp only [siteStep, h]
  case i1 => exact siteI1_site s
  case i2 => exact timerSite_zero s.params
  case i3 => rfl
  case i5 => exact siteI5_site s.params s
  case i6 => rfl
  case x4 => cases ph <;> rfl
  case x5 => exact loadSite_succ s.params ph k
  case x7 => exact ⟨trivial, by simp [pollIndex, pollBudget]⟩
  case p1 => exact siteP1_site s.params ph s
  case u1 => exact siteU1_site s.params s
  case u2 => exact siteU2_site s.params s hi hn
  case opEnd => exact ⟨rfl, rfl⟩

end Sys2Proof.Machine
end

section
/-! DS, SITE and the UID bank are not read by a procedure (spec/10_state.md R22, R23, R26): run from a state with others
it does the same, and leaves them as it found them, but for the bank that the commit writes. -/

namespace Sys2Proof.Machine

/-- `f` neither reads nor writes DS, SITE and UID. -/
def Recasts (f : State → State) : Prop :=
  ∀ d x u s, f (s.recast d x u) = (f s).recast d x u

/-- An exit of UID retrieval in a state with another DS, SITE and UID bank: a successful one has written the bank (R175). -/
def recastExit (d : DS) (x : Site) (u : Bank) (y : Option ErrorKind × State) : Option ErrorKind × State :=
  (y.1, y.2.recast d x (if y.1.isNone then y.2.uid else u))

/-- `f` neither reads nor writes DS, SITE and UID, but that a successful exit writes UID, whatever it held. -/
def RecastsExit (f : State → Option ErrorKind × State) : Prop :=
  ∀ d x u s, f (s.recast d x u) = recastExit d x u (f s)

/-! What follows for one field: the state itself is its own recast. -/

theorem Recasts.withSite {f : State → State} (h : Recasts f) (x : Site) (s : State) :
    f { s with site := x } = { f s with site := x } := by
  have own : f s = (f s).recast s.ds s.site s.uid := h s.ds s.site s.uid s
  calc f { s with site := x } = (f s).recast s.ds x s.uid := h s.ds x s.uid s
    _ = { (f s).recast s.ds s.site s.uid with site := x } := rfl
    _ = { f s with site := x } := by rw [← own]

theorem Recasts.withUid {f : State → State} (h : Recasts f) (u : Bank) (s : State) :
    f { s with uid := u } = { f s with uid := u } := by
  have own : f s = (f s).recast s.ds s.site s.uid := h s.ds s.site s.uid s
  calc f { s with uid := u } = (f s).recast s.ds s.site u := h s.ds s.site u s
    _ = { (f s).recast s.ds s.site s.uid with uid := u } := rfl
    _ = { f s with uid := u } := by rw [← own]

section
variable {f : State → Option ErrorKind × State} (h : RecastsExit f)
include h

theorem RecastsExit.own (s : State) : recastExit s.ds s.site s.uid (f s) = f s :=
  (h s.ds s.site s.uid s).symm

theorem RecastsExit.withSite (x : Site) (s : State) :
    f { s with site := x } = ((f s).1, { (f s).2 with site := x }) := by
  calc f { s with site := x } = recastExit s.ds x s.uid (f s) := h s.ds x s.uid s
    _ = (fun y => (y.1, { y.2 with site := x })) (recastExit s.ds s.site s.uid (f s)) := rfl
    _ = ((f s).1, { (f s).2 with site := x }) := by rw [h.own]

theorem RecastsExit.withDs (d : DS) (s : State) : f { s with ds := d } = ((f s).1, { (f s).2 with ds := d }) := by
  calc f { s with ds := d } = recastExit d s.site s.uid (f s) := h d s.site s.uid s
    _ = (fun y => (y.1, { y.2 with ds := d })) (recastExit s.ds s.site s.uid (f s)) := rfl
    _ = ((f s).1, { (f s).2 with ds := d }) := by rw [h.own]

/-- A successful exit is the same whatever UID held. -/
theorem RecastsExit.withUid_of_ok {s : State} (hok : (f s).1 = none) (u : Bank) : f { s with uid := u } = f s := by
  calc f { s with uid := u } = recastExit s.ds s.site u (f s) := h s.ds s.site u s
    _ = recastExit s.ds s.site s.uid (f s) := by simp only [recastExit, hok, Option.isNone_none, if_true]
    _ = f s := h.own s

/-- A failing exit leaves UID as it was. -/
theorem RecastsExit.uid_of_failed {s : State} {k : ErrorKind} (hk : (f s).1 = some k) : (f s).2.uid = s.uid := by
  have own := congrArg (fun y => y.2.uid) (h.own s)
  simpa [recastExit, hk, State.recast] using own.symm

theorem RecastsExit.withUid_of_failed {s : State} {k : ErrorKind} (hk : (f s).1 = some k) (u : Bank) :
    f { s with uid := u } = ((f s).1, { (f s).2 with uid := u }) := by
  have hu : f { s with uid := u } = recastExit s.ds s.site u (f s) := h s.ds s.site u s
  have own : (f s).2 = (f s).2.recast s.ds s.site s.uid := by
    have e := congrArg Prod.snd (h.own s)
    simpa [recastExit, hk] using e.symm
  rw [hu, own]
  simp [recastExit, hk, State.recast]

end

/-! The procedures. -/

theorem recasts_anton (p : Params) : Recasts (anton p) := fun d x u s => by
  rw [anton_eq, anton_eq]; rfl

theorem recasts_writeProgram (prog : List (Code × Byte)) : Recasts (writeProgram prog) := fun d x u s => by
  rw [writeProgram_eq, writeProgram_eq]; rfl

theorem recasts_xchg (p : Params) (cmd : List Byte) (framing : Byte) : Recasts (xchg p cmd framing) := fun d x u s => by
  rw [xchg_eq, xchg_eq]; rfl

theorem recasts_stageBytes (p : Params) (k : Nat) : Recasts (stageBytes p k) := fun d x u s =>
  stageBytes_recast p d x u k s

theorem wait_recast (p : Params) (c : CardCommand) (d : DS) (x : Site) (u : Bank) (s : State) :
    poll p (sendCard p c (s.recast d x u)) =
      ((poll p (sendCard p c s)).1, (poll p (sendCard p c s)).2.recast d x u) := by
  rw [sendCard_recast, poll_recast]

theorem recasts_poll (p : Params) : Recasts (fun s => deliverBool (pollExit (poll p s))) := fun d x u s => by
  simp only [poll_recast]; rfl

theorem recasts_detect (p : Params) : Recasts (fun s => deliverBool (pollExit (detect p s))) := fun d x u s => by
  simp only [detect, wait_recast]; rfl

theorem recastsExit_retrieve (p : Params) : RecastsExit (retrieve p) := fun d x u s => by
  have hl : levelRead p (s.recast d x u) = (levelRead p s).recast d x u := rfl
  have hv : ((levelRead p s).recast d x u).lvl = (levelRead p s).lvl := rfl
  simp only [retrieve, hl, hv]
  split
  · rfl
  · rw [parseUid_recast]; rfl

theorem recastsExit_waitThen (p : Params) (c : CardCommand) {f : State → Option ErrorKind × State}
    (hf : RecastsExit f) : RecastsExit (waitThen p c f) := fun d x u s => by
  rw [waitThen, waitThen, wait_recast]
  obtain ⟨found, s1⟩ := poll p (sendCard p c s)
  cases found with
  | false => rfl
  | true => exact hf d x u s1

theorem recastsExit_uidrd (p : Params) : RecastsExit (uidrd p) := by
  rw [uidrd_eq_waitThen]
  exact recastsExit_waitThen p (selCommand p) (recastsExit_retrieve p)

theorem recastsExit_rduid (p : Params) : RecastsExit (rduid p) := by
  rw [rduid_eq_waitThen]
  exact recastsExit_waitThen p (wupCommand p) (recastsExit_uidrd p)

/-- INIT does not read or write the UID bank (R26). -/
theorem initProc_withUid (p : Params) (u : Bank) (s : State) :
    initProc p { s with uid := u } = { initProc p s with uid := u } := by
  have ha : initAnswer { s with uid := u } = initAnswer s := rfl
  simp only [initProc, ha]
  split
  · rw [configure_eq, configure_eq]; rfl
  · rfl

/-! Every instruction. -/

/-- An instruction other than UIDRD and RDUID does not read or write the UID bank (R26). -/
theorem exec_withUid {i : Instr} (hu : i ≠ .uidrd) (hr : i ≠ .rduid) (u : Bank) (s : State) :
    exec i { s with uid := u } = mapNext (fun t => { t with uid := u }) (exec i s) := by
  cases i with
  | uidrd => exact absurd rfl hu
  | rduid => exact absurd rfl hr
  | init =>
    have hg : hostGate s.params false { s with uid := u } = hostGate s.params false s := rfl
    simp only [exec, execInit, hg]
    cases hostGate s.params false s with
    | some r => rfl
    | none => exact congrArg Host.Outcome.next (initProc_withUid s.params u s)
  | reset =>
    have hg : hostGate s.params true { s with uid := u } = hostGate s.params true s := rfl
    simp only [exec, execReset, hg]
    cases hostGate s.params true s <;> rfl
  | tmrcfg =>
    exact congrArg (fun t => Host.Outcome.next (deliver .nothing none t)) ((recasts_writeProgram _).withUid u s)
  | anton => exact congrArg (fun t => Host.Outcome.next (deliver .nothing none t)) ((recasts_anton _).withUid u s)
  | xchg cmd framing =>
    exact congrArg (fun t => Host.Outcome.next (deliver .nothing none t)) ((recasts_xchg _ cmd framing).withUid u s)
  | poll => exact congrArg Host.Outcome.next ((recasts_poll s.params).withUid u s)
  | detect => exact congrArg Host.Outcome.next ((recasts_detect s.params).withUid u s)
  | _ => rfl

/-- UID after an instruction is as before, or written by UIDRD, or by an RDUID that returns true (R26). -/
theorem exec_uid {i : Instr} {s t : State} (h : exec i s = .next t) :
    t.uid = s.uid ∨ i = .uidrd ∨ (i = .rduid ∧ t.ret = .bool true) := by
  by_cases hu : i = .uidrd
  · exact .inr (.inl hu)
  · by_cases hr : i = .rduid
    · subst hr
      obtain ⟨-, -, rfl⟩ := admitted_of_next (f := fun s => deliverBool (rduid s.params s)) h
      cases hk : (rduid s.params s).1 with
      | none => exact .inr (.inr ⟨rfl, by simp [deliverBool, hk]⟩)
      | some k => exact .inl ((recastsExit_rduid s.params).uid_of_failed hk)
    · have own : exec i s = _ := exec_withUid hu hr s.uid s
      rw [h] at own
      exact .inl (congrArg (fun t => t.uid) (Host.Outcome.next.inj own))

/-- Settles O47: by the cases of a step; UIDRD has no encoding, so it is no whole call. -/
theorem uidChangesOnlyOnSuccess : Obligations.UidChangesOnlyOnSuccess := by
  intro s t hstep hne
  rcases step_cases hstep with ⟨-, -, rfl⟩ | ⟨r, rest, i, hs, hh, hd, he⟩ | ⟨op, rest, -, -, he⟩ |
    ⟨i, v, rest, hs, hh, rfl⟩ | ⟨-, -, rfl⟩
  · exact absurd rfl hne
  · rcases (exec_uid he).resolve_left hne with rfl | ⟨rfl, hret⟩
    · exact absurd (decode_encodable hd).2 (by decide)
    · exact .inr (.inl ⟨hs, r, rest, hh, hd, hret⟩)
  · obtain ⟨x, rfl, -⟩ := enterOperation_next he
    exact absurd rfl hne
  · exact .inr (.inr ⟨hs, i, v, rest, hh⟩)
  · exact .inl ((siteStep_frame s.params s).uid.resolve_left hne)

/-- The end of UID retrieval with another UID bank: the same where it succeeds, else the other bank still there. -/
theorem RecastsExit.deliverBool_withUid {f : State → Option ErrorKind × State} (h : RecastsExit f) (u : Bank)
    (s : State) :
    deliverBool (f { s with uid := u }) = deliverBool (f s) ∨
      ((deliverBool (f s)).uid = s.uid ∧ deliverBool (f { s with uid := u }) = { deliverBool (f s) with uid := u }) := by
  cases hk : (f s).1 with
  | none => exact .inl (by rw [h.withUid_of_ok hk])
  | some k => exact .inr ⟨h.uid_of_failed hk, by rw [h.withUid_of_failed hk]; rfl⟩

/-- Settles O48: UIDRD and RDUID by their exits; every other instruction runs the same with the other bank in it. -/
theorem uidBankNeverRead : Obligations.UidBankNeverRead := by
  intro i s u
  by_cases hu : i = .uidrd
  · subst hu
    refine ⟨fun t ht => ?_, fun r hr => by cases hr⟩
    cases ht
    exact ((recastsExit_uidrd s.params).deliverBool_withUid u s).imp (congrArg Host.Outcome.next)
      (And.imp_right (congrArg Host.Outcome.next))
  · by_cases hr : i = .rduid
    · subst hr
      have hg : hostGate s.params true { s with uid := u } = hostGate s.params true s := rfl
      simp only [exec, execRduid, hg]
      cases hostGate s.params true s with
      | some r => exact ⟨fun t ht => (by cases ht), fun r hr => hr⟩
      | none =>
        refine ⟨fun t ht => ?_, fun r hr => by cases hr⟩
        cases ht
        exact ((recastsExit_rduid s.params).deliverBool_withUid u s).imp (congrArg Host.Outcome.next)
          (And.imp_right (congrArg Host.Outcome.next))
    · have blind := exec_withUid hu hr u s
      refine ⟨fun t ht => .inr ⟨?_, by rw [blind, ht]; rfl⟩, fun r hr => by rw [blind, hr]; rfl⟩
      exact (exec_uid ht).resolve_right fun h => h.elim hu fun h => hr h.1

/-- Settles O25: by the gate; under `ungated` RDUID does not read DS. -/
theorem operationsWithAMeaning : Obligations.OperationsWithAMeaning := by
  intro s hs
  refine ⟨⟨_, exec_init_of_idle hs⟩, fun hd => ⟨⟨_, exec_reset_of_admitted hs (.inl hd)⟩,
    ⟨_, exec_rduid_of_admitted hs (.inl hd)⟩⟩, fun hd hp => ?_, fun hp i hi => ?_⟩
  · have hg := hostGate_unconfigured hs (by simp [hd]) hp
    exact ⟨by simp only [exec, execReset, hg], by simp only [exec, execRduid, hg]⟩
  · rcases hi with rfl | rfl
    · exact ⟨_, exec_reset_of_admitted (s := { s with ds := .configured }) hs (.inl rfl),
        exec_reset_of_admitted hs (.inr hp)⟩
    · refine ⟨_, exec_rduid_of_admitted (s := { s with ds := .configured }) hs (.inl rfl), ?_⟩
      have back : rduid s.params s = _ := (recastsExit_rduid s.params).withDs s.ds { s with ds := .configured }
      rw [exec_rduid_of_admitted hs (.inr hp), back]
      rfl

end Sys2Proof.Machine
end

section
/-! The host operations site by site (spec/10_state.md R23) reach the state the one call gives (R28). -/

namespace Sys2Proof.Machine

theorem siteRun_one (p : Params) (s : State) : siteRun p 1 s = siteStep p s := rfl

theorem siteRun_succ (p : Params) (k : Nat) (s : State) : siteRun p (k + 1) s = siteStep p (siteRun p k s) := by
  rw [siteRun_add, siteRun_one]

/-! INIT (R120). -/

/-- The sites I2 to I4: the soft reset, the timer program and the modulation write. -/
theorem siteRun_i2_i5 (p : Params) (s : State) (hs : s.site = .i2) :
    siteRun p (p.timerProgram.length + 2) s =
      { askcfg p (tmrcfg p (chipCommand p p.cmdSoftreset s)) with site := .i5 } := by
  have h2 : siteStep p s = { chipCommand p p.cmdSoftreset s with site := timerSite p 0 } := by
    simp only [siteStep, hs]
  have ht := siteRun_timer p p.timerProgram.length 0 (siteStep p s) (by omega) (by rw [h2])
  rw [siteRun_succ, siteRun, ht, h2, List.drop_zero, writeProgram_eq, tmrcfg, writeProgram_eq]
  rfl

/-- The sites I5 and I6 are ANTON, after which INIT is done (R123). -/
theorem siteRun_i5 (p : Params) (s : State) (hs : s.site = .i5) :
    ∃ m, m ≤ 2 ∧ siteRun p m s = initDone (anton p s) := by
  by_cases hd : driverClear p (antonRead p s).tmp
  · refine ⟨2, le_rfl, ?_⟩
    simp [siteRun, siteStep, hs, siteI5, hd, anton, initDone, antonWrite, memWrite, transportWrite]
  · exact ⟨1, by omega, by simp [siteRun, siteStep, hs, siteI5, hd, anton]⟩

/-- END delivers what its site carries (R27, R207). -/
theorem siteStep_opEnd (p : Params) {s : State} {r : Ret} {k : Option ErrorKind} (hs : s.site = .opEnd r k) :
    siteStep p s = deliver r k { s with site := .idle } := by
  simp only [siteStep, hs]

/-- The sites from I2 to END are steps 2 to 5 of INIT (R120). -/
theorem siteRun_configure (p : Params) (s : State) (hs : s.site = .i2) :
    ∃ m, m ≤ p.timerProgram.length + 5 ∧ siteRun p m s = { configure p s with site := .idle } := by
  obtain ⟨m, hm, ha⟩ := siteRun_i5 p (siteRun p (p.timerProgram.length + 2) s) (by rw [siteRun_i2_i5 p s hs])
  refine ⟨p.timerProgram.length + 2 + m + 1, by omega, ?_⟩
  rw [siteRun_succ, siteRun_add, ha, siteStep_opEnd p rfl, siteRun_i2_i5 p s hs, configure]
  simp only [anton_eq, tmrcfg, writeProgram_eq]
  rfl

/-- INIT site by site, END included (R120). -/
theorem siteRun_init (p : Params) (s : State) :
    ∃ m, m ≤ p.timerProgram.length + 6 ∧
      siteRun p m { s with site := .i1 } = { initProc p s with site := .idle } := by
  have he : initAnswer { s with site := .i1 } = initAnswer s := rfl
  by_cases ha : initAnswer s
  · have h1 : siteStep p { s with site := .i1 } = { transportInit s with ds := .transportReady, site := .i2 } := by
      simp only [siteStep, siteI1, he, ha, if_true]
      rfl
    obtain ⟨m, hm, h⟩ := siteRun_configure p (siteStep p { s with site := .i1 }) (by rw [h1])
    refine ⟨m + 1, by omega, ?_⟩
    rw [siteRun, h, h1, initProc, if_pos ha, configure_eq, configure_eq]
    rfl
  · exact ⟨2, by omega, by simp [siteRun, siteStep, siteI1, he, ha, initProc, deliver, transportInit]⟩

/-- RESET site by site: S1 and END (R124). -/
theorem siteRun_reset (p : Params) (s : State) :
    siteRun p 2 { s with site := .s1 } = { resetProc p s with site := .idle } := rfl

/-- Settles O38: INIT by its stretches of sites, RESET by its one site and END; a call leaves SITE at IDLE. -/
theorem initAndResetSitesMatchCall : Obligations.InitAndResetSitesMatchCall := by
  intro s hs
  refine ⟨?_, fun hc => ?_⟩
  · obtain ⟨k, hk, h⟩ := siteRun_init s.params s
    have hi : (initProc s.params s).site = .idle := (tame_initProc s.params s).site.trans hs
    refine ⟨k, hk, ?_⟩
    rw [exec_init_of_idle hs, h, ← hi]
  · have hi : (resetProc s.params s).site = .idle := hs
    rw [exec_reset_of_admitted hs hc, siteRun_reset, ← hi]

/-! RDUID (R176). -/

/-- The END of an RDUID with the exit taken (R175, R176). -/
def ended (x : Option ErrorKind × State) : State :=
  { x.2 with site := .opEnd (.bool x.1.isNone) x.1 }

theorem siteStep_ended (p : Params) (x : Option ErrorKind × State) :
    siteStep p (ended x) = { deliverBool x with site := .idle } :=
  siteStep_opEnd p rfl

/-- The END reached does not depend on the SITE a procedure was entered with. -/
theorem RecastsExit.ended_withSite {f : State → Option ErrorKind × State} (h : RecastsExit f) (x : Site) (s : State) :
    ended (f { s with site := x }) = ended (f s) := by
  rw [h.withSite]; rfl

/-- The sites U2[0] to U3 are the FIFO reads and the commit (R174, R175). -/
theorem siteRun_parse (p : Params) (s : State) (hs : s.site = .u2) (hi : s.idx = 0) (h0 : 0 < s.n.toNat) :
    siteRun p (s.n.toNat + 1) s = ended (none, commit (stageBytes p s.n.toNat s)) := by
  obtain ⟨k, hk⟩ : ∃ k, s.n.toNat = k + 1 := ⟨s.n.toNat - 1, by omega⟩
  have hst := siteRun_stage p k s hs (by rw [hi, hk]; simp)
  rw [hk, siteRun_succ, hst]
  rfl

/-- The sites from U1 to END are the level read and the parse (R175). -/
theorem siteRun_retrieve (p : Params) (s : State) (hs : s.site = .u1) :
    ∃ m, m ≤ 6 ∧ siteRun p m s = ended (retrieve p s) := by
  by_cases hz : (levelRead p s).lvl = 0
  · refine ⟨1, by omega, ?_⟩
    simp only [siteRun_one, siteStep, hs, siteU1_zero p s hz, retrieve, hz, if_true]
    rfl
  · have h1 : siteStep p s = { startParse (levelRead p s) with site := .u2 } := by
      simp only [siteStep, hs, siteU1_pos p s hz]
    have hn : (siteStep p s).n.toNat = min (levelRead p s).lvl.toNat 4 := by
      rw [h1, ← clampLevel_toNat]; rfl
    have hl : (levelRead p s).lvl.toNat ≠ 0 := fun h => hz (BitVec.eq_of_toNat_eq h)
    have hp := siteRun_parse p (siteStep p s) (by rw [h1]) (by rw [h1]; rfl) (by omega)
    refine ⟨(siteStep p s).n.toNat + 1 + 1, by omega, ?_⟩
    rw [siteRun, hp, h1, (recasts_stageBytes p _).withSite, retrieve, if_neg hz]
    rfl

/-- The sites of a phase from X1 to END: the exchange and its wait, then what follows where a response came (R143, R161). -/
theorem siteRun_waitThen (p : Params) (ph : Phase) {f : State → Option ErrorKind × State} (hf : RecastsExit f) {b : Nat}
    (next : ∀ s, s.site = foundSite ph → ∃ m, m ≤ b ∧ siteRun p m s = ended (f s)) (s : State) (hs : s.site = .x1 ph) :
    ∃ m, m ≤ 6 + (cardCommand p ph).bytes.length + pollBudget + b ∧
      siteRun p m s = ended (waitThen p (cardCommand p ph) f s) := by
  obtain ⟨m, hm, h⟩ := siteRun_wait p ph s hs
  rw [waitThen]
  generalize poll p (sendCard p (cardCommand p ph) s) = y at h
  obtain ⟨found, s1⟩ := y
  cases found with
  | false => exact ⟨m, by omega, h⟩
  | true =>
    obtain ⟨m', hm', h'⟩ := next { s1 with site := foundSite ph } rfl
    refine ⟨m + m', by omega, ?_⟩
    rw [siteRun_add, h, ← hf.ended_withSite (foundSite ph), ← h']
    rfl

theorem siteRun_uidrd (p : Params) (s : State) (hs : s.site = .x1 .sel) :
    ∃ m, m ≤ 6 + 2 + pollBudget + 6 ∧ siteRun p m s = ended (uidrd p s) := by
  rw [uidrd_eq_waitThen]
  exact siteRun_waitThen p .sel (recastsExit_retrieve p) (siteRun_retrieve p) s hs

theorem siteRun_rduid (p : Params) (s : State) (hs : s.site = .x1 .det) :
    ∃ m, m ≤ 6 + 1 + pollBudget + (6 + 2 + pollBudget + 6) ∧ siteRun p m s = ended (rduid p s) := by
  rw [rduid_eq_waitThen]
  exact siteRun_waitThen p .det (recastsExit_uidrd p) (siteRun_uidrd p) s hs

/-- Settles O39: the two phases one after the other, then END. -/
theorem rduidSitesMatchCall : Obligations.RduidSitesMatchCall := by
  intro s hs hc
  obtain ⟨m, hm, h⟩ := siteRun_rduid s.params { s with site := .x1 .det } rfl
  refine ⟨m + 1, by omega, ?_⟩
  have hi : (deliverBool (rduid s.params s)).site = .idle := (tame_rduid s.params s).site.trans hs
  rw [siteRun_succ, h, (recastsExit_rduid s.params).ended_withSite, siteStep_ended, ← hi]
  exact exec_rduid_of_admitted hs hc

end Sys2Proof.Machine
end

section
/-! The working registers and STG are dead between operations (spec/10_state.md R43): each procedure of a host operation,
run from two states that differ only there, ends in two such states, because it writes each of them before reading it. -/

namespace Sys2Proof.Machine

/-- The state with other working registers and another STG (R24, R25). -/
def State.rework (a b : Byte) (c : BitVec 14) (d : Byte) (n i : BitVec 3) (g : Bank) (s : State) : State :=
  { s with tmp := a, sReg := b, budget := c, lvl := d, n := n, idx := i, stg := g }

theorem sameBetween_iff {s t : State} : SameBetween s t ↔ ∃ a b c d n i g, t = s.rework a b c d n i g := by
  constructor
  · exact fun h => ⟨_, _, _, _, _, _, _, h⟩
  · rintro ⟨a, b, c, d, n, i, g, rfl⟩
    rfl

/-- A procedure that ends alike from states that differ only in the working registers and STG. -/
def DeadIn (f : State → State) : Prop :=
  ∀ s t, SameBetween s t → SameBetween (f s) (f t)

/-- A procedure with a result that does, the result the same. -/
def DeadInResult {α : Type} (f : State → α × State) : Prop :=
  ∀ s t, SameBetween s t → (f t).1 = (f s).1 ∧ SameBetween (f s).2 (f t).2

/-- It is enough to look at one state and its rework. -/
theorem deadIn_of_rework {f : State → State}
    (h : ∀ s a b c d n i g, SameBetween (f s) (f (s.rework a b c d n i g))) : DeadIn f := by
  intro s t hst
  obtain ⟨a, b, c, d, n, i, g, rfl⟩ := sameBetween_iff.mp hst
  exact h s a b c d n i g

/-- The environment's answer does not depend on the registers (R60). -/
theorem SameBetween.memReadByte {s t : State} (h : SameBetween s t) (c : Code) : memReadByte c t = memReadByte c s := by
  rw [h]; rfl

theorem SameBetween.deliver {s t : State} (h : SameBetween s t) (r : Ret) (k : Option ErrorKind) :
    SameBetween (deliver r k s) (deliver r k t) := by
  obtain ⟨a, b, c, d, n, i, g, rfl⟩ := sameBetween_iff.mp h
  rfl

theorem DeadInResult.deliverBool {f : State → Option ErrorKind × State} (hf : DeadInResult f) :
    DeadIn (fun s => deliverBool (f s)) := by
  intro s t h
  obtain ⟨h1, h2⟩ := hf s t h
  simp only [Machine.deliverBool, h1]
  exact h2.deliver _ _

/-! The procedures of INIT and RESET. -/

theorem deadIn_resetProc (p : Params) : DeadIn (resetProc p) :=
  deadIn_of_rework fun _ _ _ _ _ _ _ _ => rfl

/-- INIT writes TMP before it reads it (R123). -/
theorem deadIn_initProc (p : Params) : DeadIn (initProc p) := deadIn_of_rework fun s a b c d n i g => by
  have ha : initAnswer (s.rework a b c d n i g) = initAnswer s := rfl
  simp only [initProc, ha]
  split
  · rw [configure_eq, configure_eq]; rfl
  · rfl

/-! The exchange and the polling wait: TMP, S and BUDGET are written before they are read (R141, R161). -/

theorem deadIn_sendCard (p : Params) (c : CardCommand) : DeadIn (sendCard p c) := deadIn_of_rework fun _ _ _ _ _ _ _ _ => by
  rw [sendCard_eq, sendCard_eq]; rfl

theorem deadIn_pollRead (p : Params) : DeadIn (pollRead p) := deadIn_of_rework fun _ _ _ _ _ _ _ _ => rfl

theorem SameBetween.withBudget {s t : State} (h : SameBetween s t) (b : BitVec 14) :
    SameBetween { s with budget := b } { t with budget := b } := by
  obtain ⟨_, _, _, _, _, _, _, rfl⟩ := sameBetween_iff.mp h
  rfl

theorem deadInResult_pollLoop (p : Params) (k : Nat) : DeadInResult (pollLoop p k) := by
  induction k with
  | zero => exact fun s t h => ⟨rfl, h⟩
  | succ k ih =>
    intro s t h
    have hr := deadIn_pollRead p s t h
    have hv : (pollRead p t).sReg = (pollRead p s).sReg := h.memReadByte p.regComIrq
    simp only [pollLoop, hv]
    split
    · exact ⟨rfl, hr⟩
    · split
      · exact ⟨rfl, hr⟩
      · simpa only [hv] using ih _ _ (hr.withBudget (BitVec.ofNat 14 k))

theorem deadInResult_poll (p : Params) : DeadInResult (poll p) := fun _ _ h =>
  deadInResult_pollLoop p pollBudget _ _ (h.withBudget _)

theorem deadInResult_waitThen (p : Params) (c : CardCommand) {f : State → Option ErrorKind × State}
    (hf : DeadInResult f) : DeadInResult (waitThen p c f) := by
  intro s t h
  obtain ⟨h1, h2⟩ := deadInResult_poll p _ _ (deadIn_sendCard p c s t h)
  simp only [waitThen]
  generalize poll p (sendCard p c s) = x at h1 h2
  generalize poll p (sendCard p c t) = y at h1 h2
  obtain ⟨found, s1⟩ := x
  obtain ⟨found', t1⟩ := y
  cases h1
  cases found with
  | false => exact ⟨rfl, h2⟩
  | true => exact hf s1 t1 h2

/-! The parse: the staging bytes below IDX are the ones read, and the commit replaces those from N on (R174, R177). -/

/-- Two banks with the same bytes below an index. -/
def AgreeBelow (k : Nat) (b b' : Bank) : Prop :=
  ∀ j : Fin 4, j.val < k → bankGet b' j = bankGet b j

theorem AgreeBelow.bankSet {k : Nat} {b b' : Bank} (h : AgreeBelow k b b') (hk : k < 4) (v : Byte) :
    AgreeBelow (k + 1) (bankSet b k v) (bankSet b' k v) := by
  intro j hj
  by_cases he : j = ⟨k, hk⟩
  · subst he
    rw [bankGet_bankSet_same b' ⟨k, hk⟩ v, bankGet_bankSet_same b ⟨k, hk⟩ v]
  · have hlt : j.val < k := by
      have hne : j.val ≠ k := fun h => he (Fin.ext h)
      omega
    rw [bankGet_bankSet_other b' (i := ⟨k, hk⟩) v he, bankGet_bankSet_other b (i := ⟨k, hk⟩) v he, h j hlt]

/-- The states inside a parse: N and IDX are the same, and so is STG below IDX. -/
structure SameParse (s t : State) : Prop where
  between : SameBetween s t
  n : t.n = s.n
  idx : t.idx = s.idx
  stg : AgreeBelow s.idx.toNat s.stg t.stg

theorem sameParse_startParse {s t : State} (h : SameBetween s t) (hl : t.lvl = s.lvl) :
    SameParse (startParse s) (startParse t) where
  between := by
    obtain ⟨_, _, _, _, _, _, _, rfl⟩ := sameBetween_iff.mp h
    rfl
  n := congrArg clampLevel hl
  idx := rfl
  stg := fun j hj => absurd hj (Nat.not_lt_zero _)

theorem SameParse.stageByte {s t : State} (h : SameParse s t) (p : Params) (hi : s.idx.toNat < 4) :
    SameParse (stageByte p s) (stageByte p t) := by
  obtain ⟨hb, hn, hx, hg⟩ := h
  have hnext : (Machine.stageByte p s).idx.toNat = s.idx.toNat + 1 := by
    show (s.idx + 1).toNat = _
    bv_omega
  refine ⟨?_, hn, congrArg (· + 1) hx, ?_⟩
  · obtain ⟨_, _, _, _, _, _, _, rfl⟩ := sameBetween_iff.mp hb
    rfl
  · have hstg : (Machine.stageByte p t).stg = bankSet t.stg s.idx.toNat (Machine.memReadByte p.regFifoData s) := by
      rw [← hb.memReadByte, ← hx]; rfl
    rw [hnext, hstg]
    exact hg.bankSet hi _

theorem SameParse.stageBytes {s t : State} (h : SameParse s t) (p : Params) (k : Nat) (hk : s.idx.toNat + k ≤ 4) :
    SameParse (stageBytes p k s) (stageBytes p k t) ∧ (stageBytes p k s).idx.toNat = s.idx.toNat + k ∧
      (stageBytes p k s).n = s.n := by
  induction k generalizing s t with
  | zero => exact ⟨h, rfl, rfl⟩
  | succ k ih =>
    have hnext : (Machine.stageByte p s).idx.toNat = s.idx.toNat + 1 := by
      show (s.idx + 1).toNat = _
      bv_omega
    obtain ⟨h1, h2, h3⟩ := ih (h.stageByte p (by omega)) (by omega)
    exact ⟨h1, by rw [Machine.stageBytes, h2, hnext]; omega, h3⟩

/-- After N reads the commit writes the same bank (R174, R177). -/
theorem SameParse.commit {s t : State} (h : SameParse s t) (hn : s.n.toNat ≤ s.idx.toNat) :
    SameBetween (commit s) (commit t) := by
  obtain ⟨hb, hn', -, hg⟩ := h
  have hd : t.draws = s.draws := by rw [hb]
  have settled : settledStaging t = settledStaging s := by
    have g (j : Fin 4) (hj : ¬ s.n.toNat ≤ j.val) : bankGet t.stg j = bankGet s.stg j := hg j (by omega)
    simp only [settledStaging, hn', hd]
    congr 1
    · exact ite_congr rfl (fun _ => rfl) (g 0)
    · exact ite_congr rfl (fun _ => rfl) (g 1)
    · exact ite_congr rfl (fun _ => rfl) (g 2)
    · exact ite_congr rfl (fun _ => rfl) (g 3)
  obtain ⟨_, _, _, _, _, _, _, rfl⟩ := sameBetween_iff.mp hb
  simp only [Machine.commit, settled]
  rfl

theorem SameBetween.parseUid {s t : State} (h : SameBetween s t) (hl : t.lvl = s.lvl) (p : Params) :
    SameBetween (parseUid p s) (parseUid p t) := by
  have h0 := sameParse_startParse h hl
  have hn : (startParse s).n.toNat ≤ 4 := by
    show (clampLevel s.lvl).toNat ≤ 4
    rw [clampLevel_toNat]; omega
  have hi : (startParse s).idx.toNat = 0 := rfl
  obtain ⟨h1, h2, h3⟩ := h0.stageBytes p (startParse s).n.toNat (by omega)
  simp only [Machine.parseUid, h0.n]
  exact h1.commit (by rw [h2, h3]; omega)

theorem deadInResult_retrieve (p : Params) : DeadInResult (retrieve p) := by
  intro s t h
  have hr : SameBetween (levelRead p s) (levelRead p t) := by
    obtain ⟨_, _, _, _, _, _, _, rfl⟩ := sameBetween_iff.mp h
    rfl
  have hl : (levelRead p t).lvl = (levelRead p s).lvl := h.memReadByte p.regFifoLevel
  simp only [retrieve, hl]
  split
  · exact ⟨rfl, hr⟩
  · exact ⟨rfl, hr.parseUid hl p⟩

theorem deadInResult_rduid (p : Params) : DeadInResult (rduid p) := by
  rw [rduid_eq_waitThen, uidrd_eq_waitThen]
  exact deadInResult_waitThen p (wupCommand p) (deadInResult_waitThen p (selCommand p) (deadInResult_retrieve p))

/-- Settles O49: what admits a host operation is not among the dead registers, and its procedure ends alike. -/
theorem workingRegistersDeadBetweenOperations : Obligations.WorkingRegistersDeadBetweenOperations := by
  intro i s t s' hi h he
  have hp : t.params = s.params := by rw [h]
  have hsite : t.site = s.site := by rw [h]
  have hds : t.ds = s.ds := by rw [h]
  rcases hi with rfl | rfl | rfl | rfl
  · cases he
    exact ⟨t, rfl, h⟩
  · obtain ⟨hs, rfl⟩ := exec_init_next he
    refine ⟨_, exec_init_of_idle (hsite.trans hs), ?_⟩
    rw [hp]
    exact deadIn_initProc s.params s t h
  · obtain ⟨hs, hc, rfl⟩ := admitted_of_next (f := resetProc s.params) he
    refine ⟨_, exec_reset_of_admitted (hsite.trans hs) (by rw [hds, hp]; exact hc), ?_⟩
    rw [hp]
    exact deadIn_resetProc s.params s t h
  · obtain ⟨hs, hc, rfl⟩ := admitted_of_next (f := fun s => deliverBool (rduid s.params s)) he
    refine ⟨_, exec_rduid_of_admitted (hsite.trans hs) (by rw [hds, hp]; exact hc), ?_⟩
    rw [hp]
    exact (deadInResult_rduid s.params).deliverBool s t h

end Sys2Proof.Machine
end

section
/-! Decoding undoes encoding (spec/30_encoding.md 2, 3); the transport port's calls, the scripted answers and the growth of
the bus trace (spec/20_memory.md R51 to R54, R60, R63). -/

namespace Sys2Proof.Machine

/-! Decoding a request the encoder builds. -/

theorem addressShape_iff {read : Bool} {address : Byte} :
    addressShape read address = true ↔ address.getLsbD 0 = false ∧ address.getLsbD dirBit = read := by
  simp [addressShape]

/-- An address byte of the block's shape passes the check (R92 (a), R96). -/
theorem checkAddress_of_shape {read : Bool} {address : Byte} (h : addressShape read address = true) (i : Instr) :
    checkAddress read address i = .instr i := by
  obtain ⟨h0, hd⟩ := addressShape_iff.mp h
  simp only [checkAddress, h0, hd, Bool.false_eq_true, if_false, bne_self_eq_false]

/-- The frame of a write decodes to it (R83). -/
theorem decode_writeFrame (code : Code) (v : Byte) : decode (.frame [writeAddr code, v]) = .instr (.wrreg code v) := by
  obtain ⟨h0, hd⟩ := addressShape_iff.mp (addressShape_writeAddr code)
  simp only [decode, decodeFrame, h0, hd, wireCode_writeAddr, Bool.false_eq_true, if_false, if_true]

/-- The frame of a read, with the zero filler, decodes to it (R84). -/
theorem decode_readFrame (code : Code) : decode (.frame [readAddr code, 0]) = .instr (.rdreg code) := by
  obtain ⟨h0, hd⟩ := addressShape_iff.mp (addressShape_readAddr code)
  simp only [decode, decodeFrame, h0, hd, wireCode_readAddr, Bool.false_eq_true, Bool.true_eq_false, if_false, if_true]

/-- Settles O2: by the row of the instruction; the frames rest on the bits of the wire byte, the transport requests with an
address on its shape, and the rows with no encoding do not arise. -/
theorem decodeEncodeRoundTrip : Obligations.DecodeEncodeRoundTrip := by
  intro i r hw he
  cases i with
  | nop | init | reset | rduid | noRequest | tinit => cases he; rfl
  | wrreg code v => cases he; exact decode_writeFrame code v
  | rdreg code => cases he; exact decode_readFrame code
  | twrite | tread => cases he; exact checkAddress_of_shape hw _
  | tmrcfg | askcfg | anton | irqclr | flush | xchg | detect | poll | uidrd | cmdIdle | cmdTransceive | cmdSoftreset
  | wup | sel => cases he

/-! The growth of the trace. -/

/-- Events put before the others, newest first, stand after them in order (R12, R63). -/
theorem AddsWire.busTrace {s t : State} (h : AddsWire s t) : ∃ evs, t.busTrace = s.busTrace ++ evs := by
  obtain ⟨evs, he, -⟩ := h
  exact ⟨evs.reverse, by rw [State.busTrace, he, List.reverse_append]; rfl⟩

/-- Every step adds events of the block's shape only; a whole call does because what decodes is well-formed (R63, R81, R92). -/
theorem step_addsWire {s t : State} (h : step s = .next t) : AddsWire s t := by
  rcases step_cases h with ⟨-, -, rfl⟩ | ⟨r, rest, i, -, -, hd, he⟩ | ⟨op, rest, -, -, he⟩ |
    ⟨i, v, rest, -, -, rfl⟩ | ⟨-, -, rfl⟩
  · exact .refl _
  · exact exec_addsWire (s := { s with host := rest }) (decode_encodable hd).1 he
  · obtain ⟨x, rfl, -⟩ := enterOperation_next he
    exact .refl s
  · exact .refl s
  · exact siteStep_addsWire s.params s

/-- Settles O50: whatever a step is, it adds its events and touches no other. -/
theorem traceOnlyGrows : Obligations.TraceOnlyGrows :=
  fun _ _ h => (step_addsWire h).busTrace

/-! The transport port and the script. -/

/-- The address byte of a read as arithmetic (R81). -/
theorem readAddr_eq_ofNat (code : Code) : readAddr code = BitVec.ofNat 8 (128 + 2 * code.toNat) := by
  revert code; decide

/-- Settles O16: RDREG asks for the address byte of its own code, and the script answers. -/
theorem scriptedReadsAnswerInOrder : Obligations.ScriptedReadsAnswerInOrder := by
  intro code s e h
  rw [← readAddr_eq_ofNat] at h ⊢
  have hd : memReadByte code s = e := readAnswer_script h
  exact ⟨_, rfl, congrArg Ret.byte hd, rfl⟩

/-- Settles O17: each row is its one call and the delivery of its answer, and an answer is the script's where it has one. -/
theorem transportCallsMakeOneEvent : Obligations.TransportCallsMakeOneEvent := by
  refine ⟨fun s => rfl, fun s => ?_, fun a d s => ?_, fun a s => ?_⟩
  · refine ⟨_, initAnswer s, rfl, rfl, transportInit_busTrace s, rfl, fun b rest h => ⟨initAnswer_script h, ?_⟩⟩
    exact congrArg List.tail h
  · exact ⟨_, rfl, rfl, transportWrite_busTrace a d s, rfl⟩
  · exact ⟨_, readAnswer a s, rfl, rfl, transportRead_busTrace a s, rfl, fun e h => readAnswer_script h⟩

end Sys2Proof.Machine
end

section
/-! The encodings in the other direction (spec/30_encoding.md R81, R85 to R87, R92): what the wire address byte is, what a
request that decodes is encoded as, and which requests are rejected. -/

namespace Sys2Proof.Machine

/-! The wire address byte. -/

/-- The wire byte as arithmetic (R81). -/
theorem wireByte_toNat (read : Bool) (code : Code) :
    (wireByte read code).toNat = (if read then 128 else 0) + 2 * code.toNat := by
  cases read <;> revert code <;> decide

/-- The wire byte has the shape of its direction (R81). -/
theorem addressShape_wireByte (read : Bool) (code : Code) : addressShape read (wireByte read code) = true := by
  cases read
  · exact addressShape_writeAddr code
  · exact addressShape_readAddr code

theorem wireCode_wireByte (read : Bool) (code : Code) : wireCode (wireByte read code) = code := by
  cases read
  · exact wireCode_writeAddr code
  · exact wireCode_readAddr code

/-- Settles O1: bits 7 and 0 are the shape of the byte, bits 6 to 1 the code read back. -/
theorem wireByteBits : Obligations.WireByteBits := by
  intro read code
  obtain ⟨h0, h7⟩ := addressShape_iff.mp (addressShape_wireByte read code)
  exact ⟨h7, h0, wireCode_wireByte read code, wireByte_toNat read code⟩

/-- An address byte of the block's shape is the wire byte of its direction and its code (R81, R87). -/
theorem wireByte_wireCode {read : Bool} {address : Byte} (h : addressShape read address = true) :
    wireByte read (wireCode address) = address := by
  obtain ⟨h0, h7⟩ := addressShape_iff.mp h
  have hc : (wireCode address).toNat = address.toNat / 2 % 64 := by
    simp [wireCode, codeBits, Nat.shiftRight_eq_div_pow]
  have hlow : address.toNat % 2 = 0 := by
    simpa [BitVec.getLsbD, Nat.testBit_eq_decide_div_mod_eq] using h0
  have hlt := address.isLt
  apply BitVec.eq_of_toNat_eq
  rw [wireByte_toNat, hc]
  cases read
  · have hhigh : address.toNat / 128 % 2 = 0 := by
      simpa [BitVec.getLsbD, dirBit, Nat.testBit_eq_decide_div_mod_eq] using h7
    rw [if_neg Bool.false_ne_true]
    omega
  · have hhigh : address.toNat / 128 % 2 = 1 := by
      simpa [BitVec.getLsbD, dirBit, Nat.testBit_eq_decide_div_mod_eq] using h7
    rw [if_pos rfl]
    omega

/-! Encoding what a request decodes to. -/

theorem encode_decodeHost (op : BitVec 2) : encode (decodeHost op) = some (.host op) := by
  revert op; decide

/-- A frame that decodes: a write, or a read with the zero filler (R83, R84). -/
theorem decodeFrame_instr {bytes : List Byte} {i : Instr} (h : decodeFrame bytes = .instr i) :
    (∃ a d, bytes = [a, d] ∧ addressShape false a = true ∧ i = .wrreg (wireCode a) d) ∨
    (∃ a, bytes = [a, 0] ∧ addressShape true a = true ∧ i = .rdreg (wireCode a)) := by
  unfold decodeFrame at h
  split at h
  next a d =>
    split_ifs at h with h0 h7 hd <;> cases h
    · exact .inl ⟨a, d, rfl, addressShape_iff.mpr ⟨by simpa using h0, h7⟩, rfl⟩
    · exact .inr ⟨a, by rw [hd], addressShape_iff.mpr ⟨by simpa using h0, by simpa using h7⟩, rfl⟩
  next => cases h

theorem encode_decodeFrame {bytes : List Byte} {i : Instr} (h : decodeFrame bytes = .instr i) :
    encode i = some (.frame bytes) := by
  obtain ⟨a, d, rfl, ha, rfl⟩ | ⟨a, rfl, ha, rfl⟩ := decodeFrame_instr h
  · rw [encode, writeAddr, wireByte_wireCode ha]
  · rw [encode, readAddr, wireByte_wireCode ha]

/-- A transport request passes the check of its size with size 1 only (R92 (c)). -/
theorem size_of_checkSize {size : Nat} {d : Decoded} {i : Instr} (h : checkSize size d = .instr i) : size = 1 := by
  unfold checkSize at h
  split at h
  · assumption
  · cases h

/-- Kind by kind, a transport request that decodes keeps the signals its kind uses when it is encoded again (R51). -/
theorem encode_decodeTransport {kind : BitVec 2} {address wdata : Byte} {size : Nat} {i : Instr}
    (h : decodeTransport kind address wdata size = .instr i) :
    ∃ address' wdata', encode i = some (.transport kind address' wdata' 1) ∧
      (kind ≠ 0 → size = 1) ∧ (kind = 2 ∨ kind = 3 → address' = address) ∧ (kind = 2 → wdata' = wdata) := by
  unfold decodeTransport at h
  split_ifs at h with h0 h1 h2
  · cases h
    exact ⟨0, 0, by rw [h0]; rfl, fun hne => absurd h0 hne, by simp [h0], by simp [h0]⟩
  · cases checkSize_instr h
    exact ⟨0, 0, by rw [h1]; rfl, fun _ => size_of_checkSize h, by simp [h1], by simp [h1]⟩
  · obtain ⟨-, rfl⟩ := checkAddress_instr (checkSize_instr h)
    exact ⟨address, wdata, by rw [h2]; rfl, fun _ => size_of_checkSize h, fun _ => rfl, fun _ => rfl⟩
  · obtain ⟨-, rfl⟩ := checkAddress_instr (checkSize_instr h)
    have h3 : kind = 3 := by bv_omega
    exact ⟨address, 0, by rw [h3]; rfl, fun _ => size_of_checkSize h, fun _ => rfl, fun hk => absurd hk h2⟩

/-- Settles O3: port by port, by what each port's request can decode to. -/
theorem acceptedRequestsReencode : Obligations.AcceptedRequestsReencode := by
  refine ⟨fun op i h => ?_, fun bytes i h => encode_decodeFrame h, fun kind address wdata size i h =>
    encode_decodeTransport h, fun r i h => (decode_encodable h).1⟩
  cases h
  exact encode_decodeHost op

/-! Rejection. -/

/-- A frame that is not two bytes (R93). -/
theorem decodeFrame_of_length {bytes : List Byte} (h : bytes.length ≠ 2) : decodeFrame bytes = .rejected .frameLength := by
  unfold decodeFrame
  split
  · simp at h
  · rfl

theorem checkSize_of_ne {size : Nat} (h : size ≠ 1) (d : Decoded) : checkSize size d = .rejected .sizeNotOne :=
  if_neg h

theorem checkAddress_of_bitZero {address : Byte} (h : address.getLsbD 0 = true) (read : Bool) (i : Instr) :
    checkAddress read address i = .rejected .addressBitZeroSet := by
  rw [checkAddress, if_pos h]

theorem checkAddress_of_direction {read : Bool} {address : Byte} (h0 : address.getLsbD 0 = false)
    (h7 : address.getLsbD dirBit = !read) (i : Instr) : checkAddress read address i = .rejected .directionMismatch := by
  have hne : (address.getLsbD dirBit != read) = true := by rw [h7]; cases read <;> rfl
  rw [checkAddress, h0, if_neg Bool.false_ne_true, if_pos hne]

/-- Settles O4: each clause is one check of the frame, the size or the address byte. -/
theorem neverProducedRequestsRejected : Obligations.NeverProducedRequestsRejected := by
  refine ⟨fun bytes h => decodeFrame_of_length h, fun a d h => ?bitZero, fun a d h0 h7 hd => ?filler,
    fun kind a d size hk hs => ?size, fun kind a d hk h => ?address, fun a d h0 h7 => ?write, fun a d h0 h7 => ?read⟩
  case bitZero => simp only [decode, decodeFrame, h, if_true]
  case filler => simp only [decode, decodeFrame, h0, h7, hd, Bool.false_eq_true, Bool.true_eq_false, if_false]
  case size => rcases hk with rfl | rfl | rfl <;> exact checkSize_of_ne hs _
  case address => rcases hk with rfl | rfl <;> exact checkAddress_of_bitZero h _ _
  case write => exact checkAddress_of_direction (read := false) h0 h7 _
  case read => exact checkAddress_of_direction (read := true) h0 h7 _

/-! The step at IDLE. -/

/-- Settles O8: the step takes the request and refuses what its decoding names. -/
theorem stepRefusesRejectedRequest : Obligations.StepRefusesRejectedRequest := by
  intro s r rest e hs hh hd
  rw [step_call hs hh, hd, runDecoded]

/-- Settles O9: with no move left the command port shows code 00, which is NOP. -/
theorem idleBlockDoesNothing : Obligations.IdleBlockDoesNothing := by
  intro s hs hh
  rw [step_of_idle hs, idleStep, hh]
  rfl

/-- Settles O13: the codes decode by their table, and NOP answers the state it was given. -/
theorem hostCodesAndNop : Obligations.HostCodesAndNop :=
  ⟨rfl, rfl, rfl, rfl, fun _ => rfl⟩

/-! The constants that travel as data bytes. -/

/-- A write to one register of the bytes of a list, then the end of the instruction: one event per byte, in order, and
nothing of the block changed (R61, R112). -/
theorem writeBlock_outcome (c : Code) (bytes : List Byte) (s : State) :
    WriteFrame s (deliver .nothing none (writeBlock c bytes s)) ∧
      (deliver .nothing none (writeBlock c bytes s)).ret = .nothing ∧
      (deliver .nothing none (writeBlock c bytes s)).busTrace =
        s.busTrace ++ bytes.map (fun b => .w (writeAddr c) b) := by
  rw [writeBlock_eq]
  exact ⟨rfl, rfl, by simp [State.busTrace, deliver]⟩

/-- Settles O19: a chip command is a block of one byte to the command register. -/
theorem chipCommandsWriteCommandRegister : Obligations.ChipCommandsWriteCommandRegister := fun s =>
  ⟨⟨_, rfl, writeBlock_outcome s.params.regCommand [s.params.cmdIdle] s⟩,
    ⟨_, rfl, writeBlock_outcome s.params.regCommand [s.params.cmdTransceive] s⟩,
    ⟨_, rfl, writeBlock_outcome s.params.regCommand [s.params.cmdSoftreset] s⟩⟩

/-- Settles O20: a card command is the block of its bytes to the FIFO. -/
theorem cardCommandsLoadFifo : Obligations.CardCommandsLoadFifo := fun s =>
  ⟨⟨_, rfl, writeBlock_outcome s.params.regFifoData [s.params.wupByte] s⟩,
    ⟨_, rfl, writeBlock_outcome s.params.regFifoData [s.params.selCl1, s.params.selNvb] s⟩⟩

end Sys2Proof.Machine
end

section
/-! The events of a run of the sequencer (spec/30_encoding.md R96, spec/10_state.md R23): each has a shape that names its
site, and replaying them in order finds the sites that made them. A host operation is such a run from its first site. -/

namespace Sys2Proof.Machine

/-! The shape of one event. -/

theorem eventSites_w (p : Params) (c : Code) (d : Byte) : eventSites p (.w (writeAddr c) d) = writeSites p c d := by
  simp [eventSites]

theorem eventSites_r (p : Params) (c : Code) (d : Byte) : eventSites p (.r (readAddr c) d) = readSites p c := by
  simp [eventSites]

/-- The framing of a card command is one of the two X7 writes (R89, R90). -/
theorem cardCommand_framing (p : Params) (ph : Phase) :
    (cardCommand p ph).framing = p.bfShort7 ∨ (cardCommand p ph).framing = p.bfFull8 := by
  cases ph
  · exact .inl rfl
  · exact .inr rfl

/-- The event of a site has a shape that names the site (R23, R96). -/
theorem siteName_mem_eventSites {p : Params} {s : State} {e : BusEvent} (he : siteEvent p s = some e) :
    ∃ name, siteName s.site = some name ∧ name ∈ eventSites p e := by
  cases hs : s.site <;> simp only [siteEvent, hs] at he
  case idle | u3 | opEnd => cases he
  case i1 => cases he; exact ⟨.i1, rfl, by simp [eventSites]⟩
  case i3 k =>
    obtain ⟨⟨c, d⟩, hk, rfl⟩ := Option.map_eq_some_iff.mp he
    have hm : (c, d) ∈ p.timerProgram := List.mem_of_getElem? hk
    exact ⟨.i3, rfl, by simp [eventSites_w, writeSites, hm]⟩
  case x5 ph i =>
    obtain ⟨b, -, rfl⟩ := Option.map_eq_some_iff.mp he
    exact ⟨.x5, rfl, by simp [eventSites_w, writeSites]⟩
  case x7 ph =>
    cases he
    exact ⟨.x7, rfl, by simp [eventSites_w, writeSites, cardCommand_framing p ph]⟩
  case i5 | x2 | p1 | u1 | u2 => cases he; exact ⟨_, rfl, by simp [eventSites_r, readSites]⟩
  case i2 | i4 | i6 | s1 | x1 | x3 | x4 | x6 => cases he; exact ⟨_, rfl, by simp [eventSites_w, writeSites]⟩

/-- Settles O52: a site that makes an event is named by its shape, of the table or not. -/
theorem eventShapeNamesItsSite : Obligations.EventShapeNamesItsSite := fun _ _ _ he =>
  siteName_mem_eventSites he

theorem siteEvent_eventShape {p : Params} {s : State} {e : BusEvent} (he : siteEvent p s = some e) :
    eventShape p e = true := by
  obtain ⟨name, -, hm⟩ := siteName_mem_eventSites he
  simp [eventShape, List.ne_nil_of_mem hm]

/-! The events of a run. -/

/-- The events that a run of `k` sites makes, in order (R23). -/
def runEvents (p : Params) : Nat → State → List BusEvent
  | 0, _ => []
  | k + 1, s => (siteEvent p s).toList ++ runEvents p k (siteStep p s)

/-- They are the events the run adds to the trace. -/
theorem siteRun_busTrace (p : Params) (k : Nat) (s : State) :
    (siteRun p k s).busTrace = s.busTrace ++ runEvents p k s := by
  induction k generalizing s with
  | zero => simp [siteRun, runEvents]
  | succ k ih =>
    have hstep : (siteStep p s).busTrace = s.busTrace ++ (siteEvent p s).toList := by
      rw [State.busTrace, (siteStep_frame p s).trace]
      cases siteEvent p s <;> simp [State.busTrace]
    rw [siteRun, ih, hstep, runEvents, List.append_assoc]

theorem runEvents_eventShape {p : Params} {k : Nat} {s : State} :
    ∀ e ∈ runEvents p k s, eventShape p e = true := by
  induction k generalizing s with
  | zero => simp [runEvents]
  | succ k ih =>
    intro e he
    rcases List.mem_append.mp he with h | h
    · exact siteEvent_eventShape (Option.mem_toList.mp h)
    · exact ih e h

theorem length_runEvents_le (p : Params) (k : Nat) (s : State) : (runEvents p k s).length ≤ k := by
  induction k generalizing s with
  | zero => exact le_rfl
  | succ k ih =>
    have h1 : (siteEvent p s).toList.length ≤ 1 := by cases siteEvent p s <;> simp
    have h2 := ih (siteStep p s)
    rw [runEvents, List.length_append]
    omega

/-- From U3 the run goes to END, from END to IDLE, and stays there: no site makes a call any more (R23). -/
theorem runEvents_of_ended {p : Params} {k : Nat} {s : State}
    (h : s.site = .idle ∨ s.site = .u3 ∨ ∃ ret kind, s.site = .opEnd ret kind) : runEvents p k s = [] := by
  induction k generalizing s with
  | zero => rfl
  | succ k ih =>
    rcases h with hs | hs | ⟨ret, kind, hs⟩
    · have next : (siteStep p s).site = .idle := by simp only [siteStep, hs]
      simp [runEvents, siteEvent, hs, ih (.inl next)]
    · have next : (siteStep p s).site = .opEnd (.bool true) none := by simp only [siteStep, hs]
      simp [runEvents, siteEvent, hs, ih (.inr (.inr ⟨_, _, next⟩))]
    · have next : (siteStep p s).site = .idle := by rw [siteStep_opEnd p hs]; rfl
      simp [runEvents, siteEvent, hs, ih (.inl next)]

/-- Replaying the events of a run from the same position finds the sites of the run, in order (R96). -/
theorem traceSites_runEvents {p : Params} {k : Nat} {s t : State} (hl : siteLegal p s = true) (h : SamePosition s t) :
    traceSites p (runEvents p k s) t =
      some ((List.range (runEvents p k s).length).map (fun j => (siteRun p j s).site)) := by
  induction k generalizing s t with
  | zero => rfl
  | succ k ih =>
    cases he : siteEvent p s with
    | none =>
      rw [runEvents_of_ended ((siteEvent_isNone_iff hl).mp (by rw [he]; rfl))]
      rfl
    | some e =>
      obtain ⟨hsame, hnext⟩ := siteStep_replay h he
      have hrest := ih (siteLegal_siteStep p s hl) hnext
      simp [runEvents, he, traceSites, hsame, hrest, List.range_succ_eq_map, siteRun, h.1]

/-- Settles O53: a state is at its own position. -/
theorem runTraceTellsItsSites : Obligations.RunTraceTellsItsSites := fun s k hl =>
  ⟨_, length_runEvents_le s.params k s, siteRun_busTrace s.params k s, traceSites_runEvents hl (.refl s)⟩

/-! A host operation is a run from its first site. -/

/-- The first site of an operation is a site of the table and reads no working register (R23, R42). -/
theorem firstSite_start {i : Instr} {x : Site} (h : firstSite i = some x) (p : Params) (s : State) :
    readsNothing x = true ∧ siteLegal p { s with site := x } = true := by
  cases i <;> cases h <;> exact ⟨rfl, rfl⟩

/-- NOP has no first site and changes nothing; any other host operation is the run from its first site (R23, R28, R85). -/
theorem exec_hostOperation {i : Instr} {s t : State} (hi : i = .nop ∨ i = .init ∨ i = .reset ∨ i = .rduid)
    (h : exec i s = .next t) :
    (firstSite i = none ∧ t = s) ∨
      ∃ x k, firstSite i = some x ∧ t = siteRun s.params k { s with site := x } := by
  rcases hi with rfl | rfl | rfl | rfl
  · cases h
    exact .inl ⟨rfl, rfl⟩
  · obtain ⟨hs, -⟩ := exec_init_next h
    obtain ⟨⟨k, -, hk⟩, -⟩ := initAndResetSitesMatchCall s hs
    exact .inr ⟨.i1, k, rfl, Host.Outcome.next.inj (h.symm.trans hk)⟩
  · obtain ⟨hs, hc, -⟩ := admitted_of_next (f := resetProc s.params) h
    obtain ⟨-, hk⟩ := initAndResetSitesMatchCall s hs
    exact .inr ⟨.s1, 2, rfl, Host.Outcome.next.inj (h.symm.trans (hk hc))⟩
  · obtain ⟨hs, hc, -⟩ := admitted_of_next (f := fun s => deliverBool (rduid s.params s)) h
    obtain ⟨k, -, hk⟩ := rduidSitesMatchCall s hs hc
    exact .inr ⟨.x1 .det, k, rfl, Host.Outcome.next.inj (h.symm.trans hk)⟩

/-- Settles O51: the events of the run that the operation is have their sites' shapes. -/
theorem hostOperationEventsHaveListedShapes : Obligations.HostOperationEventsHaveListedShapes := by
  intro i s t hi h
  obtain ⟨-, rfl⟩ | ⟨x, k, -, rfl⟩ := exec_hostOperation hi h
  · exact ⟨[], by simp, by simp⟩
  · exact ⟨_, siteRun_busTrace s.params k _, runEvents_eventShape⟩

theorem decodeHost_cases (op : BitVec 2) :
    decodeHost op = .nop ∨ decodeHost op = .init ∨ decodeHost op = .reset ∨ decodeHost op = .rduid := by
  unfold decodeHost
  split_ifs <;> simp

/-- Settles O54: the decoder starts at the operation's first site, where a run from reset and the operation's own run are at
the same position, since that site reads no working register. -/
theorem hostOperationTraceDecodes : Obligations.HostOperationTraceDecodes := by
  intro op s t _ h
  obtain ⟨hfirst, rfl⟩ | ⟨x, k, hfirst, rfl⟩ := exec_hostOperation (decodeHost_cases op) h
  · exact ⟨[], [], by simp, by simp [decodeTrace, hfirst], rfl⟩
  · obtain ⟨hreads, hl⟩ := firstSite_start hfirst s.params s
    have replay := traceSites_runEvents (k := k) (t := { State.resetWith s.params with site := x }) hl
      (.of_readsNothing rfl rfl hreads)
    exact ⟨_, _, siteRun_busTrace s.params k _, by rw [decodeTrace, hfirst]; exact replay, by simp⟩

end Sys2Proof.Machine
end

section
/-! The register access primitives (spec/40_register_access.md R110, R111): one transport call to the code's wire address
byte, and the delivery of its answer. -/

namespace Sys2Proof.Machine

/-- The address byte of a write as arithmetic (R81): direction bit clear, the code one place up. -/
theorem writeAddr_eq_ofNat (code : Code) : writeAddr code = BitVec.ofNat 8 (2 * code.toNat) := by
  have hbyte : (writeAddr code).toNat = 2 * code.toNat := by
    simpa [writeAddr] using wireByte_toNat false code
  rw [← hbyte, BitVec.ofNat_toNat, BitVec.setWidth_eq]

/-- Settles O14: WRREG is one write to the address byte of its code, and its frame is that byte and the value. -/
theorem wrregMakesOneWrite : Obligations.WrregMakesOneWrite := by
  intro code v s
  rw [← writeAddr_eq_ofNat]
  exact ⟨_, rfl, rfl, memWrite_busTrace code v s, rfl, rfl⟩

/-- Settles O15: RDREG is one read from the address byte of its code; its frame drives that byte and the zero filler, which
does not depend on the answer. -/
theorem rdregMakesOneRead : Obligations.RdregMakesOneRead := by
  intro code s
  rw [← readAddr_eq_ofNat]
  exact ⟨_, memReadByte code s, rfl, rfl, memRead_busTrace code s, rfl, rfl⟩

end Sys2Proof.Machine
end

section
/-! Initialisation and reset (spec/41_init_reset.md): the transactions of each procedure and what it leaves unchanged, and
the lifecycle of DS (R125). -/

namespace Sys2Proof.Machine

/-- Events put on the newest-first trace in reverse are added at the end of the trace in order (R12, R63). -/
theorem busTrace_append {s t : State} {evs : List BusEvent} (h : t.traceRev = evs.reverse ++ s.traceRev) :
    t.busTrace = s.busTrace ++ evs := by
  simp [State.busTrace, h]

/-! Plain writes: TMRCFG, ASKCFG, FLUSH and RESET. -/

/-- Settles O21: the program's writes, by the equation for a program of any length. -/
theorem tmrcfgWritesProgramInOrder : Obligations.TmrcfgWritesProgramInOrder := by
  intro s
  refine ⟨_, rfl, ?_⟩
  rw [tmrcfg, writeProgram_eq]
  exact ⟨rfl, rfl, busTrace_append rfl⟩

/-- Settles O18: each is a block of one byte to its register. -/
theorem askcfgAndFlushAreOneWrite : Obligations.AskcfgAndFlushAreOneWrite := fun s =>
  ⟨⟨_, rfl, writeBlock_outcome s.params.regTxAsk [s.params.askValue] s⟩,
    ⟨_, rfl, writeBlock_outcome s.params.regFifoLevel [s.params.fifoFlush] s⟩⟩

/-- Settles O24: admitted, RESET is a block of one byte to the command register; the refusal is the gate's. -/
theorem resetIsOneSoftResetWrite : Obligations.ResetIsOneSoftResetWrite := by
  intro s hs
  obtain ⟨-, -, hrefused, -⟩ := operationsWithAMeaning s hs
  exact ⟨fun hd => ⟨_, exec_reset_of_admitted hs (.inl hd),
    writeBlock_outcome s.params.regCommand [s.params.cmdSoftreset] s⟩, fun hd hp => (hrefused hd hp).1⟩

/-! ANTON. -/

/-- Settles O22: the read always, the write by the case of the driver bits of the byte read. -/
theorem antonReadsOnceWritesIfClear : Obligations.AntonReadsOnceWritesIfClear := by
  intro s
  refine ⟨_, memReadByte s.params.regTxControl s, rfl, ?_⟩
  rw [anton_eq]
  refine ⟨rfl, rfl, rfl, fun hset => ?_, fun hclear => ?_⟩
  · exact busTrace_append (by rw [antonEvents, if_pos hset]; rfl)
  · exact busTrace_append (by rw [antonEvents, if_neg hclear]; rfl)

/-! INIT. -/

/-- The transport up, INIT is that call and then steps 2 to 5 (R120). -/
theorem initProc_of_up {s : State} (h : initAnswer s = true) (p : Params) :
    initProc p s = configure p (transportInit s) := by
  rw [initProc, if_pos h]

/-- The transport not up, INIT is that call and the failing exit (R120). -/
theorem initProc_of_down {s : State} (h : initAnswer s = false) (p : Params) :
    initProc p s = deliver (.status .error) (some .transportSetupError) (transportInit s) := by
  rw [initProc, h]; rfl

/-- Settles O23: by the result of `T.init`; the byte read is the chip's answer after that call. -/
theorem initOutcome : Obligations.InitOutcome := by
  intro s hs
  refine ⟨fun hup => ?_, fun hdown => ?_⟩
  · refine ⟨_, memReadByte s.params.regTxControl (transportInit s), exec_init_of_idle hs, ?_⟩
    rw [initProc_of_up hup, configure_eq]
    refine ⟨rfl, rfl, rfl, rfl, rfl, ?_⟩
    simp [State.busTrace, configureEvents, antonEvents, hup]
  · refine ⟨_, exec_init_of_idle hs, ?_⟩
    rw [initProc_of_down hdown]
    exact ⟨rfl, rfl, rfl, by simp [hdown]⟩

/-! The lifecycle of DS (R125). -/

/-- Settles O27: INIT's row by what it leaves in DS, the others by their frames and the gate. -/
theorem lifecycleTable : Obligations.LifecycleTable := by
  intro s hs
  obtain ⟨-, -, hrefused, -⟩ := operationsWithAMeaning s hs
  refine ⟨⟨_, exec_init_of_idle hs, initProc_ds s.params s⟩, fun hd => ?_, fun hd => ?_, hrefused, rfl⟩
  · exact ⟨_, exec_reset_of_admitted hs (.inl hd), hd⟩
  · exact ⟨_, exec_rduid_of_admitted hs (.inl hd), (tame_rduid s.params s).deliverBool.ds.trans hd⟩

/-- The three sites that write DS write `TransportReady` or `Configured`, or, where the transport does not come up, leave
it (R120, R125). -/
theorem siteStep_ds_ne_uninitialized {s : State} (h : s.ds ≠ .uninitialized) (p : Params) :
    (siteStep p s).ds ≠ .uninitialized := by
  rcases (siteStep_frame p s).ds with hkept | hs | hs | hs
  · rwa [hkept]
  · simp only [siteStep, hs, siteI1]
    split
    · simp
    · exact h
  · simp only [siteStep, hs, siteI5]
    split
    · exact h
    · simp [initDone]
  · simp [siteStep, hs, initDone]

/-- Settles O46: by the cases of a step; a whole call leaves DS or makes it `Configured`. -/
theorem noStepBackToUninitialized : Obligations.NoStepBackToUninitialized := by
  intro s t hstep h
  rcases step_cases hstep with ⟨-, -, rfl⟩ | ⟨r, rest, i, -, -, -, he⟩ | ⟨op, rest, -, -, he⟩ |
    ⟨i, v, rest, -, -, rfl⟩ | ⟨-, -, rfl⟩
  · exact h
  · rcases exec_ds he with hkept | ⟨-, hconf⟩
    · rwa [hkept]
    · rw [hconf]; decide
  · obtain ⟨x, rfl, -⟩ := enterOperation_next he
    exact h
  · exact h
  · exact siteStep_ds_ne_uninitialized h s.params

end Sys2Proof.Machine
end

section
/-! The card-command exchange (spec/42_exchange_detect.md): the transactions of IRQCLR and XCHG in order, and detection
as the wake-up exchange with its polling wait. -/

namespace Sys2Proof.Machine

/-! IRQCLR. -/

/-- What IRQCLR does (R141): TMP holds the byte of its one read, and the write always follows. -/
theorem irqclr_eq (p : Params) (s : State) :
    irqclr p s =
      { s with
        tmp := memReadByte p.regComIrq s
        envReads := scriptDrop (readAddr p.regComIrq) s.envReads
        draws := s.draws + 1
        traceRev := .w (writeAddr p.regComIrq) (irqCleared p (memReadByte p.regComIrq s)) ::
          .r (readAddr p.regComIrq) (memReadByte p.regComIrq s) :: s.traceRev } := rfl

/-- Settles O28: the read, then the write of the byte read with the IRQ_SET bit 0; no test stands between them. -/
theorem irqclrReadsThenWritesCleared : Obligations.IrqclrReadsThenWritesCleared := by
  intro s
  refine ⟨_, memReadByte s.params.regComIrq s, rfl, ?_⟩
  rw [irqclr_eq]
  exact ⟨rfl, rfl, rfl, busTrace_append rfl⟩

/-! XCHG. -/

/-- Settles O29: by the equation for a card command of any length; TMP is the byte of the flag read. -/
theorem xchgSequence : Obligations.XchgSequence := by
  intro cmd framing s
  refine ⟨_, memReadByte s.params.regComIrq s, rfl, ?_⟩
  rw [xchg_eq, List.append_assoc s.busTrace, List.append_assoc s.busTrace]
  exact ⟨rfl, rfl, rfl, busTrace_append rfl⟩

/-! DETECT. -/

/-- DETECT delivers the result of the polling wait after the wake-up exchange (R144); a failed one is a
ResponseTimeout (R190). -/
theorem exec_detect_of_poll (s : State) {found : Bool} {t : State}
    (h : poll s.params (sendCard s.params (wupCommand s.params) s) = (found, t)) :
    exec .detect s = .next (deliver (.bool found) (if found then none else some .responseTimeout) t) := by
  have hexec : exec .detect s =
      .next (deliverBool (pollExit (poll s.params (sendCard s.params (wupCommand s.params) s)))) := rfl
  rw [hexec, h]
  cases found <;> rfl

/-- Settles O31: the exchange and its wait, with the wake-up request, and the delivery of the wait's result. -/
theorem detectOutcome : Obligations.DetectOutcome := by
  intro s
  obtain ⟨d, vs, found, last, budget, reads, draws, hpoll, hwaited, hregs⟩ :=
    exchange_waited s.params (wupCommand s.params) s
  rw [hpoll] at hregs
  refine ⟨_, d, vs, found, exec_detect_of_poll s hpoll, rfl, hwaited, rfl, hregs, rfl, rfl, ?_⟩
  rw [List.append_assoc]
  exact busTrace_append rfl

end Sys2Proof.Machine
end

section
/-! The polling supervisor (spec/43_polling.md): what POLL reads and which byte ends it, how many transport calls an
RDUID makes, and how far the sequencer is from IDLE. -/

namespace Sys2Proof.Machine

/-! POLL (R161). -/

/-- POLL delivers the result of its wait (R161); a failed one is a ResponseTimeout (R190). -/
theorem exec_poll_of_poll {s : State} {found : Bool} {t : State} (h : poll s.params s = (found, t)) :
    exec .poll s = .next (deliver (.bool found) (if found then none else some .responseTimeout) t) := by
  have hexec : exec .poll s = .next (deliverBool (pollExit (poll s.params s))) := rfl
  rw [hexec, h]
  cases found <;> rfl

theorem rxSeen_eq_false_iff {p : Params} {v : Byte} : rxSeen p v = false ↔ v &&& p.irqRx = 0 := bne_eq_false_iff_eq

theorem timerSeen_eq_false_iff {p : Params} {v : Byte} : timerSeen p v = false ↔ v &&& p.irqTimer = 0 :=
  bne_eq_false_iff_eq

/-- Settles O30: by the flags of the last byte, response received first, as the loop tests them. -/
theorem pollOutcome : Obligations.PollOutcome := by
  intro s
  obtain ⟨pre, last, reads, hstate, hpre, hfound, hlen, hspent⟩ := poll_spec s.params s
  have hbudget : (BitVec.ofNat 14 (pollBudget - pre.length)).toNat = pollBudget - pre.length := by
    simp only [BitVec.toNat_ofNat, pollBudget]; omega
  have hpoll : poll s.params s = (rxSeen s.params last, _) := Prod.ext hfound hstate
  have hneither (v : Byte) (hv : v ∈ pre) := (hpre v hv).imp rxSeen_eq_false_iff.mp timerSeen_eq_false_iff.mp
  refine ⟨_, pre, last, exec_poll_of_poll hpoll, rfl, busTrace_append rfl, hneither, hlen, rfl, ?_⟩
  cases hr : rxSeen s.params last with
  | true => exact .inl ⟨rxSeen_iff.mp hr, rfl, rfl, hbudget⟩
  | false =>
    cases ht : timerSeen s.params last with
    | true => exact .inr (.inl ⟨rxSeen_eq_false_iff.mp hr, timerSeen_iff.mp ht, rfl, rfl, hbudget⟩)
    | false =>
      exact .inr (.inr ⟨rxSeen_eq_false_iff.mp hr, timerSeen_eq_false_iff.mp ht, hspent hr ht, rfl, rfl, rfl⟩)

/-! The transport calls of an RDUID (R166). -/

/-- From `s` to `t` the trace grew by at least `lo` and at most `hi` events, one per transport call (R12). -/
def CallsBetween (lo hi : Nat) (s t : State) : Prop :=
  s.traceRev.length + lo ≤ t.traceRev.length ∧ t.traceRev.length ≤ s.traceRev.length + hi

/-- An exchange is six transport calls and one per byte of the command (R143). -/
theorem length_xchgEvents (p : Params) (cmd : List Byte) (framing d : Byte) :
    (xchgEvents p cmd framing d).length = 6 + cmd.length := by
  simp [xchgEvents]; omega

/-- An exchange, then 1 to POLL_BUDGET reads (R143, R164). -/
theorem callsBetween_wait (p : Params) (c : CardCommand) (s : State) :
    CallsBetween (7 + c.bytes.length) (6 + c.bytes.length + pollBudget) s (poll p (sendCard p c s)).2 := by
  obtain ⟨d, vs, found, last, budget, reads, draws, h, hwaited, -⟩ := exchange_waited p c s
  obtain ⟨hl, hu⟩ := hwaited.length_bounds
  rw [h]
  simp only [CallsBetween, pollEvents, List.length_append, List.length_reverse, List.length_map, length_xchgEvents]
  omega

/-- A level read and at most four FIFO reads (R173, R174). -/
theorem callsBetween_retrieve (p : Params) (s : State) : CallsBetween 1 5 s (retrieve p s).2 := by
  rcases retrieve_cases p s with ⟨reads, draws, h⟩ | ⟨level, bytes, reads, uid, draws, -, hn, -, h⟩ <;> rw [h]
  · simp [CallsBetween]
  · simp only [CallsBetween, List.length_append, List.length_reverse, List.length_map, List.length_cons]
    omega

/-- The fewest calls are those of a wait that fails at its first read, the most those of a full wait and then `f`. -/
theorem callsBetween_waitThen (p : Params) (c : CardCommand) {f : State → Option ErrorKind × State} {lo hi : Nat}
    (hf : ∀ s, CallsBetween lo hi s (f s).2) (s : State) :
    CallsBetween (7 + c.bytes.length) (6 + c.bytes.length + pollBudget + hi) s (waitThen p c f s).2 := by
  obtain ⟨hl, hu⟩ := callsBetween_wait p c s
  rw [waitThen]
  generalize poll p (sendCard p c s) = y at hl hu
  obtain ⟨found, s1⟩ := y
  cases found with
  | false => exact ⟨hl, by dsimp only at hu ⊢; omega⟩
  | true =>
    obtain ⟨hl', hu'⟩ := hf s1
    exact ⟨by dsimp only at hl ⊢; omega, by dsimp only at hu ⊢; omega⟩

theorem callsBetween_uidrd (p : Params) (s : State) :
    CallsBetween (7 + 2) (6 + 2 + pollBudget + 5) s (uidrd p s).2 := by
  rw [uidrd_eq_waitThen]
  exact callsBetween_waitThen p (selCommand p) (callsBetween_retrieve p) s

theorem callsBetween_rduid (p : Params) (s : State) :
    CallsBetween (7 + 1) (6 + 1 + pollBudget + (6 + 2 + pollBudget + 5)) s (rduid p s).2 := by
  rw [rduid_eq_waitThen]
  exact callsBetween_waitThen p (wupCommand p) (callsBetween_uidrd p) s

/-- Settles O34: the trace of RDUID grows, and by how much is the sum over its two waits and the parse. -/
theorem rduidTransportCallBound : Obligations.RduidTransportCallBound := by
  intro s hs hc
  obtain ⟨evs, htrace, -⟩ := (tame_rduid s.params s).deliverBool.adds
  obtain ⟨hl, hu⟩ := callsBetween_rduid s.params s
  have hlen : (rduid s.params s).2.traceRev.length = evs.length + s.traceRev.length :=
    (congrArg List.length htrace).trans List.length_append
  simp only [pollBudget] at hu
  have hbus := busTrace_append (s := s) (evs := evs.reverse) (by rw [List.reverse_reverse, htrace])
  refine ⟨_, evs.reverse, exec_rduid_of_admitted hs hc, hbus, ?_, ?_⟩ <;>
    rw [List.length_reverse] <;> omega

/-! The way back to IDLE (R164). -/

/-- The most sites a phase's response leads through before IDLE: U1, four U2, U3 and END after the select exchange;
after detection, X1 to X7 with two command bytes and a full wait before them. -/
def sitesAfterFound : Phase → Nat
  | .sel => 7
  | .det => 6 + selLen + pollBudget + 7

/-- The most sites, END included, from a state of the table to IDLE (R23): a bound on the rest of the running
operation. -/
def sitesLeft (p : Params) (s : State) : Nat :=
  match s.site with
  | .idle => 0
  | .opEnd _ _ => 1
  | .i6 | .s1 | .u3 => 2
  | .i5 => 3
  | .i4 => 4
  | .i3 k => 4 + (p.timerProgram.length - k)
  | .i2 => 5 + p.timerProgram.length
  | .i1 => 6 + p.timerProgram.length
  | .u2 => 2 + (s.n.toNat - s.idx.toNat)
  | .u1 => 7
  | .p1 ph => s.budget.toNat + sitesAfterFound ph
  | .x7 ph => 1 + pollBudget + sitesAfterFound ph
  | .x6 ph => 2 + pollBudget + sitesAfterFound ph
  | .x5 ph i => 2 + ((cardCommand p ph).bytes.length - i) + pollBudget + sitesAfterFound ph
  | .x4 ph => 3 + (cardCommand p ph).bytes.length + pollBudget + sitesAfterFound ph
  | .x3 ph => 4 + (cardCommand p ph).bytes.length + pollBudget + sitesAfterFound ph
  | .x2 ph => 5 + (cardCommand p ph).bytes.length + pollBudget + sitesAfterFound ph
  | .x1 ph => 6 + (cardCommand p ph).bytes.length + pollBudget + sitesAfterFound ph

theorem sitesLeft_timerSite {p : Params} {k : Nat} {s : State} (hs : s.site = timerSite p k) :
    sitesLeft p s = 4 + (p.timerProgram.length - k) := by
  rw [timerSite] at hs
  split at hs <;> simp only [sitesLeft, hs]
  omega

theorem sitesLeft_loadSite {p : Params} {ph : Phase} {i : Nat} {s : State} (hs : s.site = loadSite p ph i) :
    sitesLeft p s = 2 + ((cardCommand p ph).bytes.length - i) + pollBudget + sitesAfterFound ph := by
  rw [loadSite] at hs
  split at hs <;> simp only [sitesLeft, hs]
  omega

theorem sitesLeft_foundSite {p : Params} {ph : Phase} {s : State} (hs : s.site = foundSite ph) :
    sitesLeft p s = sitesAfterFound ph := by
  cases ph <;> simp only [foundSite] at hs <;> simp only [sitesLeft, hs] <;> rfl

theorem sitesAfterFound_pos (ph : Phase) : 1 < sitesAfterFound ph := by
  cases ph <;> simp only [sitesAfterFound] <;> omega

/-- A poll either leaves the wait or spends one of BUDGET (R161). -/
theorem sitesLeft_siteP1 (p : Params) (ph : Phase) (s : State) (hb : 1 ≤ s.budget.toNat) :
    sitesLeft p (siteP1 p ph s) < s.budget.toNat + sitesAfterFound ph := by
  have hpos := sitesAfterFound_pos ph
  have hv : (pollRead p s).sReg = memReadByte p.regComIrq s := rfl
  by_cases hr : rxSeen p (memReadByte p.regComIrq s) = true
  · rw [siteP1, hv, if_pos hr, sitesLeft_foundSite (ph := ph) rfl]
    omega
  · by_cases ht : timerSeen p (memReadByte p.regComIrq s) = true
    · rw [siteP1, hv, if_neg hr, if_pos ht]
      show 1 < _
      omega
    · by_cases h0 : (pollRead p s).budget - 1 = 0
      · simp only [siteP1, hv, if_neg hr, if_neg ht, if_pos h0]
        show 1 < _
        omega
      · rw [siteP1_again p ph s hr ht h0]
        show (s.budget - 1).toNat + _ < _
        have : (s.budget - 1).toNat < s.budget.toNat := by bv_omega
        omega

/-- A level of 0 ends the operation; any other is clamped to at most four reads (R173, R175). -/
theorem sitesLeft_siteU1 (p : Params) (s : State) : sitesLeft p (siteU1 p s) < 7 := by
  by_cases hz : (levelRead p s).lvl = 0
  · rw [siteU1_zero p s hz]
    show 1 < 7
    omega
  · rw [siteU1_pos p s hz]
    show 2 + ((clampLevel (levelRead p s).lvl).toNat - 0) < 7
    rw [clampLevel_toNat]
    omega

/-- A FIFO read moves IDX towards N (R174). -/
theorem sitesLeft_siteU2 (p : Params) (s : State) (hi : s.idx.toNat < s.n.toNat) (hn : s.n.toNat ≤ uidSize) :
    sitesLeft p (siteU2 p s) < 2 + (s.n.toNat - s.idx.toNat) := by
  have hidx : (siteU2 p s).idx.toNat = s.idx.toNat + 1 := by
    show (s.idx + 1).toNat = _
    bv_omega
  have hsite := siteU2_site p s hi hn
  have hkept : (siteU2 p s).n = s.n := rfl
  split at hsite <;> simp only [sitesLeft, hsite, hidx, hkept] <;> omega

/-- Every site of a running operation brings IDLE nearer, whatever the environment answers (R23, R164). -/
theorem sitesLeft_siteStep {p : Params} {s : State} (hl : siteLegal p s = true) (hb : s.site ≠ .idle) :
    sitesLeft p (siteStep p s) < sitesLeft p s := by
  cases hs : s.site <;> simp only [siteLegal, hs, decide_eq_true_eq] at hl <;> simp only [siteStep, hs]
  case idle => exact absurd hs hb
  case i1 =>
    rw [siteI1]
    split <;> simp only [sitesLeft, hs] <;> omega
  case i2 => rw [sitesLeft_timerSite (k := 0) rfl]; simp only [sitesLeft, hs]; omega
  case i3 k => rw [sitesLeft_timerSite (k := k + 1) rfl]; simp only [sitesLeft, hs]; omega
  case i5 =>
    simp only [siteI5]
    split <;> simp [sitesLeft, hs, initDone]
  case x4 ph => rw [sitesLeft_loadSite (ph := ph) (i := 0) rfl]; simp only [sitesLeft, hs]; omega
  case x5 ph i => rw [sitesLeft_loadSite (ph := ph) (i := i + 1) rfl]; simp only [sitesLeft, hs]; omega
  case x7 ph =>
    have hfull : (BitVec.ofNat 14 pollBudget).toNat = pollBudget := rfl
    simp only [sitesLeft, hs, hfull]; omega
  case p1 ph => simpa only [sitesLeft, hs] using sitesLeft_siteP1 p ph s hl.1
  case u1 => simpa only [sitesLeft, hs] using sitesLeft_siteU1 p s
  case u2 => simpa only [sitesLeft, hs] using sitesLeft_siteU2 p s hl.1 hl.2
  all_goals simp only [sitesLeft, hs, initDone, deliver_site]; omega

/-- The longest way back is an RDUID's from its first site, or an INIT's (R166, R120). -/
theorem sitesLeft_le {p : Params} {s : State} (hl : siteLegal p s = true) :
    sitesLeft p s ≤ 2 * pollBudget + 22 + p.timerProgram.length := by
  have hfound (ph : Phase) : (cardCommand p ph).bytes.length + sitesAfterFound ph ≤ pollBudget + 16 := by
    cases ph <;>
      simp only [cardCommand, wupCommand, selCommand, List.length_cons, List.length_nil, sitesAfterFound, selLen] <;>
      omega
  cases hs : s.site <;> simp only [siteLegal, hs, decide_eq_true_eq] at hl <;> simp only [sitesLeft, hs]
  case u2 => simp only [uidSize] at hl; omega
  case x1 ph | x2 ph | x3 ph | x4 ph | x5 ph i | x6 ph | x7 ph | p1 ph => have := hfound ph; omega
  all_goals omega

/-- From a site of the table the sequencer reaches IDLE within the sites left (R164). -/
theorem siteRun_idle {p : Params} {s : State} (hl : siteLegal p s = true) :
    ∃ k, k ≤ sitesLeft p s ∧ (siteRun p k s).site = .idle := by
  induction hm : sitesLeft p s using Nat.strong_induction_on generalizing s with
  | _ m ih =>
    by_cases hi : s.site = .idle
    · exact ⟨0, Nat.zero_le _, hi⟩
    · have hlt := sitesLeft_siteStep hl hi
      obtain ⟨k, hk, hidle⟩ := ih _ (hm ▸ hlt) (siteLegal_siteStep p s hl) rfl
      exact ⟨k + 1, by omega, hidle⟩

/-- Settles O40: every site spends one of the sites left, of which the invariant bounds the number. -/
theorem sequencerReturnsToIdle : Obligations.SequencerReturnsToIdle := by
  intro s ⟨_, hl, _, _⟩
  obtain ⟨k, hk, hidle⟩ := siteRun_idle hl
  exact ⟨k, hk.trans (sitesLeft_le hl), hidle⟩

end Sys2Proof.Machine
end

section
/-! UID retrieval (spec/44_uid_retrieval.md): the frame of UIDRD and RDUID, the three exits of UIDRD, and RDUID as
detection followed by UIDRD when a card answered. -/

namespace Sys2Proof.Machine

/-! What UID retrieval leaves unchanged (R175, R176). -/

theorem UidFrame.trans {s t u : State} (h : UidFrame s t) (h' : UidFrame t u) : UidFrame s u :=
  Eq.trans h' (by rw [h])

theorem UidFrame.deliverBool {s : State} {x : Option ErrorKind × State} (h : UidFrame s x.2) :
    UidFrame s (deliverBool x) :=
  h.trans rfl

theorem uidFrame_wait (p : Params) (c : CardCommand) (s : State) : UidFrame s (poll p (sendCard p c s)).2 := by
  obtain ⟨d, vs, found, last, budget, reads, draws, h, -, -⟩ := exchange_waited p c s
  rw [h]; rfl

theorem uidFrame_retrieve (p : Params) (s : State) : UidFrame s (retrieve p s).2 := by
  rcases retrieve_cases p s with ⟨reads, draws, h⟩ | ⟨level, bytes, reads, uid, draws, -, -, -, h⟩ <;> rw [h] <;> rfl

/-! The exits of an exchange and its wait: `f` runs exactly when a response came. -/

theorem waitThen_of_timeout {p : Params} {c : CardCommand} {s t : State} (h : poll p (sendCard p c s) = (false, t))
    (f : State → Option ErrorKind × State) : waitThen p c f s = (some .responseTimeout, t) := by
  rw [waitThen, h]

theorem waitThen_of_response {p : Params} {c : CardCommand} {s t : State} (h : poll p (sendCard p c s) = (true, t))
    (f : State → Option ErrorKind × State) : waitThen p c f s = f t := by
  rw [waitThen, h]

theorem uidFrame_waitThen (p : Params) (c : CardCommand) {f : State → Option ErrorKind × State}
    (hf : ∀ s, UidFrame s (f s).2) (s : State) : UidFrame s (waitThen p c f s).2 := by
  have hwait := uidFrame_wait p c s
  rcases h : poll p (sendCard p c s) with ⟨found, t⟩
  rw [h] at hwait
  cases found with
  | false => rw [waitThen_of_timeout h]; exact hwait
  | true => rw [waitThen_of_response h]; exact hwait.trans (hf t)

theorem uidFrame_uidrd (p : Params) (s : State) : UidFrame s (uidrd p s).2 := by
  rw [uidrd_eq_waitThen]
  exact uidFrame_waitThen p (selCommand p) (uidFrame_retrieve p) s

theorem uidFrame_rduid (p : Params) (s : State) : UidFrame s (rduid p s).2 := by
  rw [rduid_eq_waitThen]
  exact uidFrame_waitThen p (wupCommand p) (uidFrame_uidrd p) s

/-! UIDRD (R175). -/

/-- The select exchange and its wait, then one of the three exits: the wait failed, the level read 0, or the reply was
parsed and committed (R172 to R175). -/
theorem retrieved_uidrd (p : Params) (s : State) : Retrieved p s.busTrace s (deliverBool (uidrd p s)) := by
  obtain ⟨d, vs, found, last, budget, reads, draws, hpoll, hwaited, hregs⟩ := exchange_waited p (selCommand p) s
  rw [hpoll] at hregs
  refine ⟨d, vs, found, hwaited, ?_⟩
  rw [uidrd_eq_waitThen]
  cases found with
  | false =>
    rw [waitThen_of_timeout hpoll, List.append_assoc]
    exact ⟨rfl, hregs, .inl ⟨rfl, rfl, rfl, ⟨rfl, rfl, rfl, rfl⟩, rfl, busTrace_append rfl⟩⟩
  | true =>
    rw [waitThen_of_response hpoll]
    rcases retrieve_cases p _ with ⟨reads', draws', h⟩ | ⟨level, bytes, reads', uid, draws', hlevel, hlen, huid, h⟩
    · rw [h]
      refine ⟨rfl, hregs, .inr (.inl ⟨rfl, rfl, rfl, ⟨rfl, rfl, rfl, rfl⟩, rfl, ?_⟩)⟩
      simp [State.busTrace, deliverBool, selCommand]
    · rw [h]
      refine ⟨rfl, hregs, .inr (.inr ⟨rfl, rfl, rfl, level, bytes, hlevel, hlen, rfl, clampLevel_toNat level, rfl, ?_,
        huid⟩)⟩
      simp [State.busTrace, deliverBool, selCommand]

/-- Settles O32: by the exits of the retrieval, and the frame of its exchange, its wait and its parse. -/
theorem uidrdOutcome : Obligations.UidrdOutcome := fun s =>
  ⟨_, rfl, (uidFrame_uidrd s.params s).deliverBool, retrieved_uidrd s.params s⟩

/-! RDUID (R176). -/

/-- Settles O33: a failed detection ends RDUID with its own timeout, a successful one leaves LVL and what the parse writes
to the UID retrieval that follows; a false result is a failing exit, which leaves UID. -/
theorem rduidFillOrFail : Obligations.RduidFillOrFail := by
  intro s hs hc
  obtain ⟨d, vs, found, last, budget, reads, draws, hpoll, hwaited, hregs⟩ :=
    exchange_waited s.params (wupCommand s.params) s
  have hbus : (poll s.params (sendCard s.params (wupCommand s.params) s)).2.busTrace = s.busTrace ++
      (xchgEvents s.params [s.params.wupByte] s.params.bfShort7 d ++ pollEvents s.params vs) := by
    rw [hpoll]; exact busTrace_append rfl
  rw [hpoll] at hregs hbus
  have hexec := exec_rduid_of_admitted hs (.inl hc)
  have huid : (deliverBool (rduid s.params s)).ret = .bool false → (deliverBool (rduid s.params s)).uid = s.uid := by
    intro hfalse
    rcases exec_uid hexec with hkept | huidrd | ⟨-, htrue⟩
    · exact hkept
    · cases huidrd
    · rw [hfalse] at htrue; cases htrue
  refine ⟨_, d, vs, found, hexec, (uidFrame_rduid s.params s).deliverBool, hwaited, ?_, ?_, huid⟩ <;> rintro rfl <;>
    rw [rduid_eq_waitThen, List.append_assoc, ← hbus]
  · rw [waitThen_of_timeout hpoll]
    exact ⟨rfl, rfl, rfl, hregs, rfl, ⟨rfl, rfl, rfl, rfl⟩, rfl⟩
  · rw [waitThen_of_response hpoll]
    exact (retrieved_uidrd s.params _).of_parseKept rfl ⟨rfl, rfl, rfl, rfl⟩

end Sys2Proof.Machine
end

section
/-! The failing exits of an RDUID (spec/60_exceptions.md R196): each is taken at the read that causes it, and nothing is
issued after that read. -/

namespace Sys2Proof.Machine

/-- The read that causes a failure of this kind: a poll with IRQ_RX clear, or a FIFO level of 0. A TransportSetupError is
caused by no read. -/
def FailingRead (p : Params) : ErrorKind → BusEvent → Prop
  | .responseTimeout, e => ∃ d, e = .r (readAddr p.regComIrq) d ∧ d &&& p.irqRx = 0
  | .emptyResponse, e => e = .r (readAddr p.regFifoLevel) 0
  | .transportSetupError, _ => False

/-- A failing exit of `f` adds to the trace some events and then the read that failed, the last one. -/
def EndsAtFailingRead (p : Params) (f : State → Option ErrorKind × State) : Prop :=
  ∀ s k, (f s).1 = some k → ∃ evs e, FailingRead p k e ∧ (f s).2.busTrace = s.busTrace ++ evs ++ [e]

/-- The one failing exit of the retrieval is taken right after its level read (R175). -/
theorem endsAtFailingRead_retrieve (p : Params) : EndsAtFailingRead p (retrieve p) := by
  intro s k hk
  rcases retrieve_cases p s with ⟨reads, draws, h⟩ | ⟨level, bytes, reads, uid, draws, -, -, -, h⟩ <;> rw [h] at hk ⊢
  · cases hk
    exact ⟨[], _, rfl, by rw [List.append_nil]; exact busTrace_append rfl⟩
  · cases hk

/-- A polling wait that failed ends at a poll with IRQ_RX clear (R161). -/
theorem poll_busTrace_of_timeout {p : Params} {s t : State} (h : poll p s = (false, t)) :
    ∃ evs e, FailingRead p .responseTimeout e ∧ t.busTrace = s.busTrace ++ evs ++ [e] := by
  obtain ⟨vs, found, last, budget, reads, draws, hpoll, hwaited, -⟩ := poll_waited p s
  obtain ⟨rfl, rfl⟩ := Prod.mk.inj (hpoll.symm.trans h)
  obtain ⟨pre, d, rfl, hd⟩ := hwaited.last_of_failed
  refine ⟨pollEvents p pre, _, ⟨d, rfl, hd⟩, ?_⟩
  rw [List.append_assoc]
  exact busTrace_append (by simp [pollEvents])

/-- A failed wait ends at its last poll, and `f`, which runs only after a response, at its own failing read. -/
theorem EndsAtFailingRead.waitThen {p : Params} {f : State → Option ErrorKind × State} (hf : EndsAtFailingRead p f)
    (c : CardCommand) : EndsAtFailingRead p (waitThen p c f) := by
  intro s k hk
  rcases h : poll p (sendCard p c s) with ⟨found, t⟩
  cases found with
  | false =>
    rw [waitThen_of_timeout h] at hk ⊢
    cases hk
    obtain ⟨sent, hsent⟩ := (tame_xchg p c.bytes c.framing s).adds.busTrace
    obtain ⟨evs, e, he, htrace⟩ := poll_busTrace_of_timeout h
    exact ⟨sent ++ evs, e, he, by rw [htrace, sendCard, hsent, List.append_assoc s.busTrace]⟩
  | true =>
    rw [waitThen_of_response h] at hk ⊢
    obtain ⟨waited, hwaited⟩ := (tame_wait p c s).adds.busTrace
    rw [h] at hwaited
    obtain ⟨evs, e, he, htrace⟩ := hf t k hk
    exact ⟨waited ++ evs, e, he, by rw [htrace, hwaited, List.append_assoc s.busTrace]⟩

theorem endsAtFailingRead_uidrd (p : Params) : EndsAtFailingRead p (uidrd p) := by
  rw [uidrd_eq_waitThen]
  exact (endsAtFailingRead_retrieve p).waitThen (selCommand p)

theorem endsAtFailingRead_rduid (p : Params) : EndsAtFailingRead p (rduid p) := by
  rw [rduid_eq_waitThen]
  exact (endsAtFailingRead_uidrd p).waitThen (wupCommand p)

/-- Settles O35: a false result is a failing exit of the procedure, and by its kind the last read is the one that
failed. -/
theorem failedRduidEndsAtFailingRead : Obligations.FailedRduidEndsAtFailingRead := by
  intro s t hexec hret
  obtain ⟨-, -, rfl⟩ := admitted_of_next (f := fun s => deliverBool (rduid s.params s)) hexec
  cases hk : (rduid s.params s).1 with
  | none => simp [deliverBool, deliver, hk] at hret
  | some kind =>
    obtain ⟨evs, e, he, htrace⟩ := endsAtFailingRead_rduid s.params s kind hk
    cases kind with
    | responseTimeout =>
      obtain ⟨d, rfl, hd⟩ := he
      exact .inl ⟨hk, evs, d, htrace, hd⟩
    | emptyResponse =>
      obtain rfl := he
      exact .inr ⟨hk, evs, htrace⟩
    | transportSetupError => exact he.elim

end Sys2Proof.Machine
end

section
/-! The block's own reset (spec/70_reset_and_hazards.md R221, spec/10_state.md R42): the fields the spec gives a value, for
a block built with any parameters. -/

namespace Sys2Proof.Machine

@[simp] theorem resetWith_ds (p : Params) : (State.resetWith p).ds = .uninitialized := rfl

@[simp] theorem resetWith_site (p : Params) : (State.resetWith p).site = .idle := rfl

@[simp] theorem resetWith_ret (p : Params) : (State.resetWith p).ret = .nothing := rfl

@[simp] theorem resetWith_busTrace (p : Params) : (State.resetWith p).busTrace = [] := rfl

/-- Settles O43: the reset values do not depend on the parameters, so profile P-GK's are those of every block. -/
theorem resetState : Obligations.ResetState :=
  ⟨resetWith_ds profilePGK, resetWith_site profilePGK, resetWith_ret profilePGK, resetWith_busTrace profilePGK⟩

end Sys2Proof.Machine
end

section
/-! Words written out from the spec's encodings (spec/30_encoding.md 2, 3, spec/95_test_vectors.md V1, V3). -/

namespace Sys2Proof.Machine

/-- Settles O5: each word is the encoding of the instruction it stands for, and decoding undoes encoding. -/
theorem sampleWordsDecode : Obligations.SampleWordsDecode := by
  unfold Obligations.SampleWordsDecode
  and_intros
  all_goals exact decodeEncodeRoundTrip _ _ (by decide) (by decide)

end Sys2Proof.Machine
end
